-- ==== Sys2Proof/Word.lean ====
section
/-! DEFINITION. The word types of the block: registers and command words are 32 bits (R25, R55), seed and digest
bytes 8 bits (R11), word codes 10 bits (R6, R12). -/

namespace Sys2Proof

/-- A register value, a bus value or a command word (R6 "register width", R25, R55). -/
abbrev Word := BitVec 32

/-- One byte of a byte string (R11). -/
abbrev Byte := BitVec 8

/-- A word code: an integer in [0, 1024), ten bits (R6 `CODE_BITS`, R12). -/
abbrev WordCode := BitVec 10

/-- A 16-byte seed, byte 0 first (R6 `SEED_BYTES`, R11, R12). -/
abbrev SeedBytes := Vector Byte 16

/-- The 13 word codes of the data positions, position 0 first (R6 `DATA_WORDS`). -/
abbrev DataCodes := Vector WordCode 13

end Sys2Proof
end

