-- ==== Sys2Proof/Syntax.lean ====
section
/-! DEFINITION. The six commands of spec/opcode_table.json (R56). Every operand is an implicit register (R62), so no
constructor has an argument. Illegal words (R57) are no rows of the table: the decoder rejects them and the engine
performs R97 for them (log 12). -/

namespace Sys2Proof

/-- The commands of R56, in the order of their opcodes. -/
inductive Instr where
  /-- R95, word 0x00000000. -/
  | nop
  /-- R72, word 0x00000001. -/
  | encode
  /-- R74, word 0x00000002. -/
  | decode
  /-- R82, word 0x00000003. -/
  | checksum
  /-- R86, word 0x00000004. -/
  | phrase
  /-- R88, word 0x00000005. -/
  | validate
  deriving DecidableEq, Repr

end Sys2Proof
end

