-- ==== Sys2Proof/WellFormed.lean ====
section
/-! DEFINITION. Well-formedness: of a command (R62: no operand fields), of a command word (R55, R57), and of the code
tuples the Codec works on (R12, R104). -/

namespace Sys2Proof

/-- A command as syntax is always well formed: it carries no immediate, register specifier or mode bit (R55, R62).
Which WORDS are commands is `legalWord`. -/
def Instr.wellFormed : Instr → Bool
  | .nop | .encode | .decode | .checksum | .phrase | .validate => true

/-- The reserved field RSV of a command word, bits 31 to 4, is 0 (R55). -/
def rsvZero (v : Word) : Bool := v.extractLsb' 4 28 == 0#28

/-- The opcode field OP of a command word, bits 3 to 0, names a command: it is below 6 (R56, R57). -/
def opAssigned (v : Word) : Bool := (v.extractLsb' 0 4).toNat < 6

/-- A command word is legal when RSV is 0 and OP is assigned; every other word is illegal (R57). -/
def legalWord (v : Word) : Bool := rsvZero v && opAssigned v

/-- A register value is a word code when it is below 1024 (R12 *WordIndex*, R35). -/
def isCode (v : Word) : Bool := v.toNat < 1024

/-- Position 12's low two bits are zero: the value is a multiple of 4 (R12, R105). -/
def padZero (v : Word) : Bool := v.toNat % 4 == 0

/-- A *well-formed 13-tuple* of register values: every one below 1024 and the last a multiple of 4 (R12). -/
def wellFormedTuple (cs : Vector Word 13) : Bool := cs.toList.all isCode && padZero cs[12]

end Sys2Proof
end

