-- ==== Sys2Proof/Decode.lean ====
section
/-! DEFINITION. Reading a command from a command word, and writing it (R55, R56, R57, R60, R66). -/

namespace Sys2Proof

/-- Why a command word is illegal (R57): who is named first follows the order of the decode of R60. -/
inductive IllegalWord where
  /-- `v[31:4] != 0`, whatever OP says. -/
  | reservedBitsSet
  /-- `v[31:4] = 0` and `v[3:0] >= 6`. -/
  | reservedOpcode (op : BitVec 4)
  deriving DecidableEq, Repr

/-- OP, bits 3 to 0 of a command word (R55). -/
def opField (v : Word) : BitVec 4 := v.extractLsb' 0 4

/-- RSV, bits 31 to 4 of a command word (R55). -/
def rsvField (v : Word) : BitVec 28 := v.extractLsb' 4 28

/-- The opcode map: which command an OP value names (R56); 6 to 15 name none (R57). -/
def commandOfOp (op : BitVec 4) : Except IllegalWord Instr :=
  match op.toNat with
  | 0 => .ok .nop
  | 1 => .ok .encode
  | 2 => .ok .decode
  | 3 => .ok .checksum
  | 4 => .ok .phrase
  | 5 => .ok .validate
  | _ => .error (.reservedOpcode op)

/-- `decode(v)` of R60, total over all command words; an illegal word is rejected by name (R57). -/
def decodeCommand (v : Word) : Except IllegalWord Instr :=
  if rsvField v ≠ 0#28 then .error .reservedBitsSet else commandOfOp (opField v)

/-- The opcode of each command (R56). -/
def opOfCommand : Instr → BitVec 4
  | .nop      => 0x0#4
  | .encode   => 0x1#4
  | .decode   => 0x2#4
  | .checksum => 0x3#4
  | .phrase   => 0x4#4
  | .validate => 0x5#4

/-- The command word of a command: the zero extension of its opcode (R56, R66). -/
def encodeCommand (i : Instr) : Word := (opOfCommand i).setWidth 32

/-- The instruction the decoder reads from the table's bits: a command is one 32-bit word (R55, R63), bit 0 the least
significant bit of the word; bits of `w` at or above `nbits` do not belong to the instruction. -/
def decodeTableWord (nbits w : Nat) : Option Instr :=
  match decodeCommand (BitVec.ofNat 32 (w % 2 ^ nbits)) with
  | .ok i => some i
  | .error _ => none

end Sys2Proof
end

