-- ==== Sys2Proof/Machine/State.lean ====
section
/-! DEFINITION. The state of the block as plain data (R37, R39), the inputs and answers of its bus port (R20, R51),
the reasons a step can stop, and the state after reset (R37, R140). -/

namespace Sys2Proof.Machine

/-- The result codes that a completion can report (R101); the values 5 to 15 of STATUS.ERR are never produced and have
no constructor (log 9). -/
inductive ResultCode where
  /-- 0 NONE: the command succeeded. -/
  | none
  /-- 1 INVALID_ENCODING: CODE12 is no multiple of 4 (R105). -/
  | invalidEncoding
  /-- 2 CHECKSUM_MISMATCH: the decoded seed's checksum words differ from CODE13, CODE14 (R88). -/
  | checksumMismatch
  /-- 3 RANGE: a code register the command reads holds 1024 or more (R104). -/
  | range
  /-- 4 ILLEGAL_CMD: the command word is illegal (R57). -/
  | illegalCmd
  deriving DecidableEq, Repr

/-- STATUS by its fields (R36). The reserved bits have no storage: they read 0 and ignore writes (R28). -/
structure Status where
  /-- bit 0: 1 from the acceptance of a command to its completion -/
  busy : Bool
  /-- bit 1: set by every completion, W1C -/
  done : Bool
  /-- bit 3: sticky overrun, W1C -/
  ovr : Bool
  /-- bits 7 to 4: result code of the last completed command -/
  err : ResultCode
  /-- bits 11 to 8: the phrase position the result code refers to, or 0xF (R102) -/
  pos : BitVec 4
  /-- bits 15 to 12: bits [3:0] of the last accepted command word -/
  lastop : BitVec 4
  deriving DecidableEq, Repr

/-- The registers of the window (R25). -/
inductive Reg where
  | id
  | ctrl
  | cmd
  | status
  | seed (k : Fin 4)
  | code (n : Fin 15)
  deriving DecidableEq, Repr

/-- Whether a host access reads or writes. -/
inductive Direction where
  | read
  | write
  deriving DecidableEq, Repr

/-- One host bus access: `MemRead(addr, width)` and `MemWrite(addr, width, value)` of R10, at a bus address, `width` in
bytes. The value of a write is its 32 bits; an access of another width is a bus error whatever it carries (R44). -/
inductive Access where
  | read (addr width : Nat)
  | write (addr width : Nat) (value : Word)
  deriving DecidableEq, Repr

/-- What can arrive from outside the block: a host access (R20), or a change of the reset input (R140). -/
inductive PortEvent where
  | access (a : Access)
  | assertReset
  | releaseReset
  deriving DecidableEq, Repr

/-- One input of the total order of R51, with its place against the completion of the command that is in flight when
its turn comes: `afterCompletion = true` puts the completion first, `false` puts this input first (R59, R110). With one
flag on each input every interleaving of R51 is some list of requests (log 1). -/
structure Request where
  event : PortEvent
  afterCompletion : Bool
  deriving DecidableEq, Repr

/-- What the port answers to a host access. -/
inductive Reply where
  /-- a read was served with this value (R45) -/
  | readData (v : Word)
  /-- a write was served (R46), also one that had no effect or was dropped (R26, R146) -/
  | writeDone
  /-- `raise BusError(info)`: an error response; its form at the host is the platform's (R44, R106; log 15) -/
  | busError (addr : Nat) (dir : Direction)
  deriving DecidableEq, Repr

/-- The state of the block: the registers and hidden state of R37, then the model's own fields for the port. ID, CTRL
and CMD store nothing (R31, R32, R33; log 8). -/
structure State where
  /-- SEED0 to SEED3, the 16-byte seed buffer (R34) -/
  seed : Vector Word 4
  /-- CODE0 to CODE14, the code buffer (R35) -/
  code : Vector Word 15
  /-- STATUS (R36) -/
  status : Status
  /-- LATCH, the command word accepted last (R29) -/
  latch : Word
  /-- MODEL: the level of the reset input, `true` while asserted (R140, R141; log 7) -/
  resetAsserted : Bool
  /-- MODEL: the inputs still to be served, the next one first (R51; log 3) -/
  requests : List Request
  /-- MODEL: the answers given so far, the newest first (log 3) -/
  replies : List Reply
  /-- MODEL: how many unspecified reads have been served: the index of the next free value (R147; log 4) -/
  freeReads : Nat
  deriving DecidableEq, Repr

/-- Why the machine stops with a fault. -/
inductive Fault where
  /-- Raised by the port for a host access to an address outside the 256-byte window, which is no address of the block
  (R40, R49). Safe: the model says nothing about what the platform does there (log 6). -/
  | outsideWindow (addr : Nat)
  deriving DecidableEq, Repr

/-- Why the machine gives a step no meaning. -/
inductive Refusal where
  /-- Raised by an arm of `exec` for an instruction without a meaning; no arm does. Safe. -/
  | notModelled (mnemonic : String)
  /-- Raised by the port for a host access to the window while the reset input is asserted: "what such an access
  returns or does is the platform's and a model gives it no step" (R141). Safe (log 7). -/
  | accessDuringReset
  deriving DecidableEq, Repr

/-- STATUS at reset: 0x00000F00 (R36, R37). -/
def Status.reset : Status :=
  { busy := false, done := false, ovr := false, err := .none, pos := 0xF#4, lastop := 0x0#4 }

/-- The machine right after reset: every register at the value R37 states; the reset input released (log 7), no input
pending, no answer given (log 3) and no unspecified read served (log 4). -/
def State.reset : State :=
  { seed := Vector.replicate 4 0#32
    code := Vector.replicate 15 0#32
    status := Status.reset
    latch := 0#32
    resetAsserted := false
    requests := []
    replies := []
    freeReads := 0 }

end Sys2Proof.Machine
end

