-- ==== Sys2Proof/Machine/Flags.lean ====
section
/-! DEFINITION. STATUS: its word (R36), and the four ways it changes: acceptance (R58), completion (R61), a dropped
write (R107, R146) and a write of its W1C bits (R36, R46). Reset is `Status.reset` (R142). -/

namespace Sys2Proof.Machine

/-- The value of STATUS.ERR for each result code (R101). -/
def ResultCode.bits : ResultCode → BitVec 4
  | .none             => 0#4
  | .invalidEncoding  => 1#4
  | .checksumMismatch => 2#4
  | .range            => 3#4
  | .illegalCmd       => 4#4

/-- POS when no phrase position applies (R102). -/
def noPosition : BitVec 4 := 0xF#4

/-- STATUS as software reads it, bit 31 first: reserved, LASTOP, POS, ERR, OVR, reserved, DONE, BUSY (R36). -/
def Status.toWord (st : Status) : Word :=
  0#16 ++ st.lastop ++ st.pos ++ st.err.bits ++ BitVec.ofBool st.ovr ++ 0#1 ++ BitVec.ofBool st.done ++ BitVec.ofBool st.busy

/-- Acceptance of the command word `v` (R58): BUSY 1, DONE 0, ERR NONE, POS 0xF, LASTOP `v[3:0]`; OVR stays. -/
def Status.accepted (st : Status) (v : Word) : Status :=
  { st with busy := true, done := false, err := .none, pos := noPosition, lastop := v.extractLsb' 0 4 }

/-- Completion with a result code and a position (R61): BUSY 0, DONE 1; OVR and LASTOP stay. -/
def Status.completed (st : Status) (err : ResultCode) (pos : BitVec 4) : Status :=
  { st with busy := false, done := true, err := err, pos := pos }

/-- A dropped write sets the sticky OVR and nothing else (R107, R146). -/
def Status.overrun (st : Status) : Status :=
  { st with ovr := true }

/-- A write of `v` to STATUS: bit 1 clears DONE, bit 3 clears OVR, nothing else changes (R36, R46). -/
def Status.writeOneToClear (st : Status) (v : Word) : Status :=
  { st with done := st.done && !v[1], ovr := st.ovr && !v[3] }

end Sys2Proof.Machine
end

