-- ==== Sys2Proof/Config.lean ====
section
/-! DEFINITION. What an instance of the block fixes and the spec leaves open (R6, R21): opaque parameters, of which
nothing can be proved beyond their types, and the free values of unspecified reads (R147). `LATENCY` has no constant
here: the model admits a completion at any point after acceptance (R59; log 1). -/

namespace Sys2Proof

/-- `BASE` divided by 256; free (R6, R49; log 6). -/
opaque Config.basePage : Nat

/-- `BASE`, the bus address of the register window: any multiple of 256 (R6, R25, R49). -/
def Config.base : Nat := 256 * Config.basePage

/-- `DIGEST_LEN` less 3; free (R6, R80; log 5). -/
opaque Config.digestTail : Nat

/-- `DIGEST_LEN`: the digest's length in bytes, any integer of at least 3 (R6, R80). -/
abbrev Config.digestLen : Nat := Config.digestTail + 3

/-- `Digest`: one fixed total function from the 16 seed bytes, byte 0 first, to `DIGEST_LEN` bytes; which function is
open, and nothing of it may be assumed (R6, R21, R80; log 5). -/
opaque Config.digest : SeedBytes → Vector Byte Config.digestLen

/-- `DIGEST_ID`: the 8-bit name of the digest function that ID reports; free (R6, R31; log 5). -/
opaque Config.digestId : Byte

/-- The free values that reads of an in-flight command's write set answer: the `k`-th such read of a run answers
`freeRead k`, of which nothing is known (R147 "a model draws it freely, and two such reads may differ"; log 4). -/
opaque Config.freeRead : Nat → Word

end Sys2Proof
end

