-- ==== Sys2Proof/Machine/Operands.lean ====
section
/-! DEFINITION. The implicit operands of the commands (R62): the seed bytes of the SEED registers and back (R34, R74),
the code registers, the seed bit stream and its ten-bit groups (R70, R71), the checksum words of the digest (R81), and
the two checks on code registers (R104, R105). -/

namespace Sys2Proof.Machine

/-- `R[SEEDk]`. -/
def seedReg (s : State) (k : Fin 4) : Word := s.seed[k]

/-- `CODE(n)`, that is `R[CODEn]` (R10). -/
def codeReg (s : State) (n : Fin 15) : Word := s.code[n]

/-- `SEEDB(i) = R[SEED(i div 4)][8*(i mod 4)+7 : 8*(i mod 4)]` (R34). -/
def seedByte (s : State) (i : Fin 16) : Byte :=
  (seedReg s ⟨i.val / 4, by omega⟩).extractLsb' (8 * (i.val % 4)) 8

/-- The seed `(SEEDB(0), ..., SEEDB(15))`. -/
def seedBytes (s : State) : SeedBytes := Vector.ofFn (seedByte s)

/-- The four SEED register values that hold the bytes `b`: SEEDk is
`b[4k] | b[4k+1] << 8 | b[4k+2] << 16 | b[4k+3] << 24` (R74, R88). -/
def packSeed (b : SeedBytes) : Vector Word 4 :=
  Vector.ofFn fun k : Fin 4 =>
    b[4 * k.val].setWidth 32 ||| b[4 * k.val + 1].setWidth 32 <<< 8
      ||| b[4 * k.val + 2].setWidth 32 <<< 16 ||| b[4 * k.val + 3].setWidth 32 <<< 24

/-- `S = BE(b[0], ..., b[15])`: the bytes as one 128-bit number, byte 0 most significant (R11, R70). -/
def bigEndian (b : SeedBytes) : BitVec 128 :=
  b[0] ++ b[1] ++ b[2] ++ b[3] ++ b[4] ++ b[5] ++ b[6] ++ b[7]
    ++ b[8] ++ b[9] ++ b[10] ++ b[11] ++ b[12] ++ b[13] ++ b[14] ++ b[15]

/-- `toBytesBE(S, 16)`: `b[0] = S[127:120], ..., b[15] = S[7:0]` (R11, R74). -/
def toBytesBE (S : BitVec 128) : SeedBytes :=
  Vector.ofFn fun i : Fin 16 => S.extractLsb' (8 * (15 - i.val)) 8

/-- `stream130(t)`: for t < 128 stream bit t is `SEEDB(t div 8)[7 - (t mod 8)]`, byte 0 first and each byte most
significant bit first; stream bits 128 and 129 are 0 (R70, R71). -/
def streamBit (b : SeedBytes) (t : Nat) : Bool :=
  if h : t < 128 then (b[t / 8]).getLsbD (7 - t % 8) else false

/-- `V = S << 2`: the 130-bit stream, the 128 seed bits followed by two zero bits (R71). -/
def paddedStream (b : SeedBytes) : BitVec 130 := bigEndian b ++ 0#2

/-- `ENC(s)`: code n is `V[10*(12-n)+9 : 10*(12-n)]` (R71, R72, R85). -/
def encodeSeed (b : SeedBytes) : DataCodes :=
  Vector.ofFn fun n : Fin 13 => (paddedStream b).extractLsb' (10 * (12 - n.val)) 10

/-- `V = sum over n of CODE(n) << (10*(12-n))`: the codes occupy disjoint bit ranges, code 0 the most significant, so
the sum is their concatenation (R74, R79). -/
def joinCodes (cs : DataCodes) : BitVec 130 :=
  cs[0] ++ cs[1] ++ cs[2] ++ cs[3] ++ cs[4] ++ cs[5] ++ cs[6] ++ cs[7] ++ cs[8] ++ cs[9] ++ cs[10] ++ cs[11] ++ cs[12]

/-- `DEC(c)`: the bytes of `S = V >> 2`, the trailing two bits dropped (R74, R85). -/
def decodeCodes (cs : DataCodes) : SeedBytes := toBytesBE ((joinCodes cs).extractLsb' 2 128)

/-- The data positions CODE0 to CODE12 as word codes; the commands use it after the RANGE check, when each register
holds a value below 1024 (R74, R104). -/
def dataCodes (s : State) : DataCodes :=
  Vector.ofFn fun n : Fin 13 => (codeReg s (n.castLE (by omega))).setWidth 10

/-- `d[k]` for the three digest bytes that are ever used (R81); every digest has them, `DIGEST_LEN` being at least 3
(R80). -/
def digestByte (d : Vector Byte Config.digestLen) (k : Fin 3) : Byte :=
  d[k.val]'(by unfold Config.digestLen; omega)

/-- Bit t of "the first 20 bits of the digest": bits 7 down to 0 of byte 0, then of byte 1, then of byte 2 (R81). -/
def digestBit (d : Vector Byte Config.digestLen) (t : Nat) : Bool :=
  if h : t < 24 then (digestByte d ⟨t / 8, by omega⟩).getLsbD (7 - t % 8) else false

/-- The first checksum word of a digest: `(d[0] << 2) | (d[1] >> 6)`, 10 bits (R81). -/
def checksumWord13 (d : Vector Byte Config.digestLen) : WordCode :=
  (digestByte d 0).setWidth 10 <<< 2 ||| (digestByte d 1).setWidth 10 >>> 6

/-- The second checksum word of a digest: `((d[1] & 0x3F) << 4) | (d[2] >> 4)`, 10 bits (R81). -/
def checksumWord14 (d : Vector Byte Config.digestLen) : WordCode :=
  (digestByte d 1 &&& 0x3F#8).setWidth 10 <<< 4 ||| (digestByte d 2).setWidth 10 >>> 4

/-- `CK(s) = (word13, word14)`, from the digest of the seed bytes in index order (R80, R81, R85). -/
def checksumWords (b : SeedBytes) : WordCode × WordCode :=
  (checksumWord13 (Config.digest b), checksumWord14 (Config.digest b))

/-- The RANGE check: the lowest position below `limit` whose code register holds 1024 or more, if any (R104). -/
def firstOutOfRange (limit : Nat) (s : State) : Option (Fin 15) :=
  (List.finRange 15).find? fun n => n.val < limit && 1024 ≤ (codeReg s n).toNat

/-- The INVALID_ENCODING check: `CODE(12) mod 4 != 0` (R105). -/
def padBitsSet (s : State) : Bool := (codeReg s 12).toNat % 4 != 0

end Sys2Proof.Machine
end

