-- ==== Sys2Proof/Machine/Ops.lean ====
section
/-! DEFINITION. The named operations on the block's state: register writes and completion of a command (R61, R62),
issue (R58), reset (R140, R142), reads and writes of the register window (R25, R45, R46), the port that serves the
inputs (R44, R51, R141), and whose turn it is (R59). -/

namespace Sys2Proof.Machine

/-! ### Commands -/

/-- One register write of a command's write set, with its value (R60). -/
inductive RegWrite where
  | seed (k : Fin 4) (v : Word)
  | code (n : Fin 15) (v : Word)
  deriving DecidableEq, Repr

/-- What a command's rule yields: `(err, pos, W)` (R60). -/
structure CommandResult where
  err : ResultCode
  pos : BitVec 4
  writes : List RegWrite
  deriving DecidableEq, Repr

/-- Apply one write of W. -/
def applyWrite (s : State) : RegWrite → State
  | .seed k v => { s with seed := s.seed.set k v }
  | .code n v => { s with code := s.code.set n v }

/-- Apply every write of W (R61). -/
def applyWrites (s : State) (W : List RegWrite) : State := W.foldl applyWrite s

/-- `complete(err, pos, W)` of R61: in one step, W is applied if err is NONE, ERR and POS are written, BUSY becomes 0
and DONE 1; LATCH, OVR and LASTOP stay. -/
def complete (s : State) (r : CommandResult) : State :=
  let s' := if r.err = .none then applyWrites s r.writes else s
  { s' with status := s'.status.completed r.err r.pos }

/-- A success: ERR NONE, POS 0xF, write set W. -/
def succeed (W : List RegWrite) : CommandResult := { err := .none, pos := noPosition, writes := W }

/-- A failure: its code and position, and an empty write set (R61, R75). -/
def failWith (err : ResultCode) (pos : BitVec 4) : CommandResult := { err := err, pos := pos, writes := [] }

/-- Writes of the SEED registers: `SEEDk <- v[k]` for k = 0 to 3. -/
def seedWrites (v : Vector Word 4) : List RegWrite :=
  (List.finRange 4).map fun k => .seed k v[k]

/-- Writes of the data positions: `CODEn <- zext_32(c[n])` for n = 0 to 12 (R72). -/
def dataCodeWrites (cs : DataCodes) : List RegWrite :=
  (List.finRange 13).map fun n => .code (n.castLE (by omega)) (cs[n].setWidth 32)

/-- Writes of the checksum positions: `CODE13 <- zext_32(w13)`, `CODE14 <- zext_32(w14)` (R82). -/
def checksumWrites (w : WordCode × WordCode) : List RegWrite :=
  [.code 13 (w.1.setWidth 32), .code 14 (w.2.setWidth 32)]

/-- The write set of a command: the registers it may write at completion (R62, R147). -/
def writeSet : Instr → Reg → Bool
  | .nop,      _       => false
  | .encode,   .code n => n.val < 13
  | .encode,   _       => false
  | .decode,   .seed _ => true
  | .decode,   _       => false
  | .checksum, .code n => 13 ≤ n.val
  | .checksum, _       => false
  | .phrase,   .code _ => true
  | .phrase,   _       => false
  | .validate, .seed _ => true
  | .validate, _       => false

/-- The write set of a command word: an illegal word writes nothing (R62, R97). -/
def wordWriteSet (v : Word) (r : Reg) : Bool :=
  match decodeCommand v with
  | .ok i => writeSet i r
  | .error _ => false

/-- Register `r` is in the write set of the command in flight (R147). -/
def inFlightTarget (s : State) (r : Reg) : Bool := s.status.busy && wordWriteSet s.latch r

/-! ### Issue and reset -/

/-- Accept the command word `v` (R58): LATCH and STATUS change, no data register does. -/
def acceptCommand (s : State) (v : Word) : State :=
  { s with latch := v, status := s.status.accepted v }

/-- A write to CMD, SEEDk or CODEn while BUSY = 1: dropped, OVR set, nothing else (R107, R146). -/
def dropWrite (s : State) : State := { s with status := s.status.overrun }

/-- `issue(v)` of R58. -/
def issue (s : State) (v : Word) : State :=
  if s.status.busy then dropWrite s else acceptCommand s v

/-- Every register at its reset value; a command in flight is abandoned (R140, `softReset()` of R142). CTRL stores
nothing (log 8). The port's own fields stay. -/
def resetBlock (s : State) : State :=
  { s with
    seed := Vector.replicate 4 0#32
    code := Vector.replicate 15 0#32
    status := Status.reset
    latch := 0#32 }

/-! ### The register window -/

/-- The value of ID: MAGIC 0x5EED, EDITION 0x01, `DIGEST_ID` (R31). -/
def idValue : Word := 0x5EED#16 ++ 0x01#8 ++ Config.digestId

/-- The register at a window offset; `none` at a reserved or misaligned offset (R25, R27). -/
def regAt (o : Nat) : Option Reg :=
  if o = 0x000 then some .id
  else if o = 0x004 then some .ctrl
  else if o = 0x008 then some .cmd
  else if o = 0x00C then some .status
  else if h : (0x010 ≤ o ∧ o ≤ 0x01C) ∧ o % 4 = 0 then some (.seed ⟨(o - 0x010) / 4, by omega⟩)
  else if h : (0x020 ≤ o ∧ o ≤ 0x058) ∧ o % 4 = 0 then some (.code ⟨(o - 0x020) / 4, by omega⟩)
  else none

/-- The window offset of a register (R25). -/
def offsetOf : Reg → Nat
  | .id     => 0x000
  | .ctrl   => 0x004
  | .cmd    => 0x008
  | .status => 0x00C
  | .seed k => 0x010 + 4 * k.val
  | .code n => 0x020 + 4 * n.val

/-- The value a register holds, as a host read finds it (R45); CTRL and CMD read 0 (R32, R33). -/
def regValue (s : State) : Reg → Word
  | .id     => idValue
  | .ctrl   => 0#32
  | .cmd    => 0#32
  | .status => s.status.toWord
  | .seed k => seedReg s k
  | .code n => codeReg s n

/-- The byte of the window at a mapped offset: byte o + j of the word at offset o is its bits [8j+7 : 8j] (R41). -/
def windowByte (s : State) (a : Nat) : Option Byte :=
  (regAt (a - a % 4)).map fun r => (regValue s r).extractLsb' (8 * (a % 4)) 8

/-- The effect of a host write of `v` on a register (R46, R146). -/
def writeReg (s : State) (r : Reg) (v : Word) : State :=
  match r with
  | .id     => s
  | .ctrl   => if v[0] then resetBlock s else s
  | .cmd    => issue s v
  | .status => { s with status := s.status.writeOneToClear v }
  | .seed k => if s.status.busy then dropWrite s else { s with seed := s.seed.set k v }
  | .code n => if s.status.busy then dropWrite s else { s with code := s.code.set n v }

/-! ### The port -/

/-- The port gives an answer. -/
def answer (s : State) (r : Reply) : State := { s with replies := r :: s.replies }

/-- The answer to a read of a register: its value, or a free value while it is a target of the command in flight, which
uses up one free value (R45, R147). No register of the block changes (R48). -/
def readReg (s : State) (r : Reg) : State :=
  if inFlightTarget s r then
    answer { s with freeReads := s.freeReads + 1 } (.readData (Config.freeRead s.freeReads))
  else answer s (.readData (regValue s r))

/-- The bus address an access names. -/
def accessAddr : Access → Nat
  | .read a _ => a
  | .write a _ _ => a

/-- The width of an access in bytes. -/
def accessWidth : Access → Nat
  | .read _ w => w
  | .write _ w _ => w

/-- Whether an access reads or writes. -/
def accessDirection : Access → Direction
  | .read _ _ => .read
  | .write _ _ _ => .write

/-- `o = addr - BASE` for an address of the window (R40, R45); `none` for any other address. -/
def windowOffset (addr : Nat) : Option Nat :=
  if Config.base ≤ addr ∧ addr < Config.base + 256 then some (addr - Config.base) else none

/-- The register an access at window offset `o` names, `none` when the access is a bus error: a width other than 4, a
misaligned address, or a reserved offset (R43, R44). BASE is a multiple of 256, so the address and its offset have the
same alignment. -/
def legalTarget (o width : Nat) : Option Reg :=
  if width = 4 ∧ o % 4 = 0 then regAt o else none

/-- Serve an access that names register `r` (R45, R46). -/
def serveRegister (s : State) (a : Access) (r : Reg) : State :=
  match a with
  | .read _ _ => readReg s r
  | .write _ _ v => answer (writeReg s r v) .writeDone

/-- Serve an access at window offset `o`: its register's read or write, or a bus error, which changes no register
(R44, R106). -/
def serveAtOffset (s : State) (a : Access) (o : Nat) : State :=
  match legalTarget o (accessWidth a) with
  | some r => serveRegister s a r
  | none => answer s (.busError (accessAddr a) (accessDirection a))

/-- Serve one host access. An address outside the window is none of the block's (R40, R49; log 6); an access to the
window while the reset input is asserted has no step (R141; log 7). -/
def serveAccess (s : State) (a : Access) : Host.Outcome State Fault Refusal :=
  match windowOffset (accessAddr a) with
  | none => .fault (.outsideWindow (accessAddr a))
  | some o => if s.resetAsserted then .refused .accessDuringReset else .next (serveAtOffset s a o)

/-- Serve one input of the port. While the reset input is asserted and at its release every register holds its reset
value (R140). -/
def serveEvent (s : State) (e : PortEvent) : Host.Outcome State Fault Refusal :=
  match e with
  | .access a => serveAccess s a
  | .assertReset => .next (resetBlock { s with resetAsserted := true })
  | .releaseReset => .next (resetBlock { s with resetAsserted := false })

/-- The port's turn: the next input is taken and served; with no input pending nothing happens (log 2). -/
def servePort (s : State) : Host.Outcome State Fault Refusal :=
  match s.requests with
  | [] => .next s
  | q :: rest => serveEvent { s with requests := rest } q.event

/-- The next input stands after the completion of the command in flight, or no input is left, so that the completion
comes first (R59, R110, R152; log 1, log 2). -/
def completionFirst (s : State) : Bool :=
  match s.requests with
  | [] => true
  | q :: _ => q.afterCompletion

/-- It is the engine's turn: a command is in flight (R59), the reset input is released (R140) and the completion stands
before the next input. -/
def engineTurn (s : State) : Bool := s.status.busy && !s.resetAsserted && completionFirst s

/-- Put the completion of a command in flight before the next input. -/
def engineNext (s : State) : State :=
  { s with
    resetAsserted := false
    requests := match s.requests with
      | [] => []
      | q :: rest => { q with afterCompletion := true } :: rest }

end Sys2Proof.Machine
end

