-- ==== Sys2Proof/Machine/Checksum.lean ====
section
/-! DEFINITION. The checksum command (spec/41_checksum.md). -/

namespace Sys2Proof.Machine

/-- CHECKSUM (R82): CODE13 and CODE14 from the digest of the seed. -/
def checksumResult (s : State) : CommandResult :=
  succeed (checksumWrites (checksumWords (seedBytes s)))

/-- CHECKSUM's completion. -/
def execChecksum (s : State) : Host.Outcome State Fault Refusal := .next (complete s (checksumResult s))

end Sys2Proof.Machine
end

