-- ==== Sys2Proof/Machine/Codec.lean ====
section
/-! DEFINITION. The Codec commands ENCODE and DECODE (spec/40_codec.md). -/

namespace Sys2Proof.Machine

/-- ENCODE (R72): CODE0 to CODE12 from the seed. -/
def encodeResult (s : State) : CommandResult :=
  succeed (dataCodeWrites (encodeSeed (seedBytes s)))

/-- ENCODE's completion. -/
def execEncode (s : State) : Host.Outcome State Fault Refusal := .next (complete s (encodeResult s))

/-- DECODE (R74): the RANGE check on positions 0 to 12, then the INVALID_ENCODING check, then SEED0 to SEED3 from the
codes. -/
def decodeResult (s : State) : CommandResult :=
  match firstOutOfRange 13 s with
  | some n => failWith .range (BitVec.ofNat 4 n.val)
  | none =>
    if padBitsSet s then failWith .invalidEncoding 12#4
    else succeed (seedWrites (packSeed (decodeCodes (dataCodes s))))

/-- DECODE's completion. -/
def execDecode (s : State) : Host.Outcome State Fault Refusal := .next (complete s (decodeResult s))

end Sys2Proof.Machine
end

