-- ==== Sys2Proof/Machine/Composite.lean ====
section
/-! DEFINITION. The composite commands PHRASE and VALIDATE (spec/42_phrase_validate.md). -/

namespace Sys2Proof.Machine

/-- PHRASE (R86): CODE0 to CODE12 as ENCODE writes them, CODE13 and CODE14 as CHECKSUM writes them. -/
def phraseResult (s : State) : CommandResult :=
  succeed (dataCodeWrites (encodeSeed (seedBytes s)) ++ checksumWrites (checksumWords (seedBytes s)))

/-- PHRASE's completion. -/
def execPhrase (s : State) : Host.Outcome State Fault Refusal := .next (complete s (phraseResult s))

/-- The comparison of R88: `(CODE(13), CODE(14)) = (w13, w14)`, on whole registers. -/
def checksumMatches (s : State) (w : WordCode × WordCode) : Bool :=
  codeReg s 13 == w.1.setWidth 32 && codeReg s 14 == w.2.setWidth 32

/-- VALIDATE (R88): the RANGE check on positions 0 to 14, then the INVALID_ENCODING check, then the comparison of the
checksum words; on a match SEED0 to SEED3 from the codes. -/
def validateResult (s : State) : CommandResult :=
  match firstOutOfRange 15 s with
  | some n => failWith .range (BitVec.ofNat 4 n.val)
  | none =>
    if padBitsSet s then failWith .invalidEncoding 12#4
    else if checksumMatches s (checksumWords (decodeCodes (dataCodes s))) then
      succeed (seedWrites (packSeed (decodeCodes (dataCodes s))))
    else failWith .checksumMismatch noPosition

/-- VALIDATE's completion. -/
def execValidate (s : State) : Host.Outcome State Fault Refusal := .next (complete s (validateResult s))

end Sys2Proof.Machine
end

