-- ==== Sys2Proof/Machine/Control.lean ====
section
/-! DEFINITION. The control command NOP and the completion of an illegal command word (spec/43_control.md). -/

namespace Sys2Proof.Machine

/-- NOP's completion (R95): ERR NONE, POS 0xF, nothing written. -/
def execNop (s : State) : Host.Outcome State Fault Refusal := .next (complete s (succeed []))

/-- The completion of an illegal command word (R97): ERR ILLEGAL_CMD, POS 0xF, nothing written. It is no arm of `exec`:
an illegal word is no instruction of the table (log 12). -/
def execIllegal (s : State) : Host.Outcome State Fault Refusal := .next (complete s (failWith .illegalCmd noPosition))

end Sys2Proof.Machine
end

