-- ==== Sys2Proof/Machine/Dispatch.lean ====
section
/-! DEFINITION. The meaning of each command: the completion step of R60 for a decoded command, one arm per constructor. -/

namespace Sys2Proof.Machine

def exec (i : Instr) (s : State) : Host.Outcome State Fault Refusal :=
  match i with
  | .nop => Sys2Proof.Machine.execNop s
  | .encode => Sys2Proof.Machine.execEncode s
  | .decode => Sys2Proof.Machine.execDecode s
  | .checksum => Sys2Proof.Machine.execChecksum s
  | .phrase => Sys2Proof.Machine.execPhrase s
  | .validate => Sys2Proof.Machine.execValidate s

end Sys2Proof.Machine
end

