-- ==== Sys2Proof/Machine/Engine.lean ====
section
/-! DEFINITION. The engine's step (R60) and how a command word comes to stand before it (R29, R58). -/

namespace Sys2Proof.Machine

/-- `engineStep()` of R60: decode LATCH, perform the command's rule, complete; an illegal word performs R97. -/
def engineStep (s : State) : Host.Outcome State Fault Refusal :=
  match decodeCommand s.latch with
  | .ok i => exec i s
  | .error _ => execIllegal s

/-- The state in which the command word `v` has been accepted, whatever was in flight before, and its completion comes
next (R58; log 10). -/
def withAccepted (s : State) (v : Word) : State := engineNext (acceptCommand s v)

end Sys2Proof.Machine
end

