-- ==== Sys2Proof/Machine/Step.lean ====
section
/-! DEFINITION. One step of the block: a completion of the engine or one input of the port, in the order that the state
holds (R20, R47, R51, R59). -/

namespace Sys2Proof.Machine

/-- One step: the engine's completion when it is the engine's turn, else the port's turn. -/
def step (s : State) : Host.Outcome State Fault Refusal :=
  if engineTurn s then engineStep s else servePort s

/-- `s` with the command word `w` accepted and in flight, its completion the very next step (log 10). A command is one
32-bit word (R63); of `w` the low `nbits` bits are the instruction's, every bit above is 0. -/
def State.withFetchWord (s : State) (nbits w : Nat) : State :=
  withAccepted s (BitVec.ofNat 32 (w % 2 ^ nbits))

end Sys2Proof.Machine
end

