-- ==== Sys2Proof/Machine/HostNotation.lean ====
section
/-! DEFINITION. The host notation of R64 and R65 as functions that build the inputs of the port. Host variables, labels,
branches and the polling loop are host software (R64). Each statement takes its place against the completion of the
command in flight (`after`, log 1). -/

namespace Sys2Proof.Machine

/-- `MemRead(BASE + off(NAME), 4)`. -/
def readAccess (r : Reg) : Access := .read (Config.base + offsetOf r) 4

/-- `MemWrite(BASE + off(NAME), 4, value)`. -/
def writeAccess (r : Reg) (v : Word) : Access := .write (Config.base + offsetOf r) 4 v

/-- `rd NAME -> t` (R64); the value is in the port's answer. -/
def hostRd (r : Reg) (after : Bool) : Request := { event := .access (readAccess r), afterCompletion := after }

/-- `wr NAME, value` and `wrv NAME, t` (R64). -/
def hostWr (r : Reg) (v : Word) (after : Bool) : Request :=
  { event := .access (writeAccess r v), afterCompletion := after }

/-- `cmd MNEMONIC` (R64). -/
def hostCmd (i : Instr) (after : Bool) : Request := hostWr .cmd (encodeCommand i) after

/-- `run MNEMONIC` (R65) with the shortest poll: the one STATUS read that stands after the completion. -/
def hostRun (i : Instr) : List Request := [hostCmd i true, hostRd .status true]

/-- `ldseed b0, ..., b15` (R65): four writes, SEED0 first, each after any completion. -/
def hostLdseed (b : SeedBytes) : List Request :=
  (List.finRange 4).map fun k => hostWr (.seed k) (packSeed b)[k] true

/-- `ldcodes c0, ..., c14` (R65): fifteen writes in order. -/
def hostLdcodes (cs : Vector Word 15) : List Request :=
  (List.finRange 15).map fun n => hostWr (.code n) cs[n] true

/-- `ack` (R65): clear DONE and OVR. -/
def hostAck (after : Bool) : Request := hostWr .status 0x0000000A#32 after

end Sys2Proof.Machine
end

