-- ==== Sys2Proof/Safety.lean ====
section
/-! DEFINITION. What the claims say about runs: a run of steps, inputs that never stop the block, and a state whose
STATUS, LATCH and reset input agree as the spec says they do. -/

namespace Sys2Proof.Machine

/-- `k` steps from `s`. -/
def runSteps (k : Nat) (s : State) : Host.Outcome State Fault Refusal := Host.Core.run Sys2Proof.core k s

/-- No input is one that the block has no step for, when the reset input's level is `asserted` before the first: every
access names an address of the window (R40) and none comes while the reset input is asserted (R141). -/
def inputsServable : Bool → List Request → Bool
  | _, [] => true
  | asserted, q :: rest =>
    match q.event with
    | .access a => !asserted && (windowOffset (accessAddr a)).isSome && inputsServable asserted rest
    | .assertReset => inputsServable true rest
    | .releaseReset => inputsServable false rest

/-- Every pending input of `s` can be served. -/
def servable (s : State) : Bool := inputsServable s.resetAsserted s.requests

/-- LATCH holds an illegal command word (R57). -/
def latchIllegal (s : State) : Prop := ∀ i, decodeCommand s.latch ≠ .ok i

/-- The position that goes with each result code (R101, R102). -/
def posFits (err : ResultCode) (pos : BitVec 4) : Prop :=
  match err with
  | .none             => pos = 0xF#4
  | .invalidEncoding  => pos = 12#4
  | .checksumMismatch => pos = 0xF#4
  | .range            => pos.toNat ≤ 14
  | .illegalCmd       => pos = 0xF#4

/-- The commands that produce each result code (R62, R101); RANGE names a position that the command reads (R104). -/
def errFits (err : ResultCode) (pos : BitVec 4) (latch : Word) : Prop :=
  match err with
  | .none             => True
  | .invalidEncoding  => decodeCommand latch = .ok .decode ∨ decodeCommand latch = .ok .validate
  | .checksumMismatch => decodeCommand latch = .ok .validate
  | .range            => (decodeCommand latch = .ok .decode ∧ pos.toNat ≤ 12) ∨ decodeCommand latch = .ok .validate
  | .illegalCmd       => ∀ i, decodeCommand latch ≠ .ok i

/-- STATUS, LATCH and the reset input agree. -/
structure Consistent (s : State) : Prop where
  /-- while BUSY = 1: DONE 0, ERR NONE, POS 0xF (R36, R102, R147) -/
  inFlight : s.status.busy = true → s.status.done = false ∧ s.status.err = .none ∧ s.status.pos = 0xF#4
  /-- LASTOP is bits [3:0] of the word accepted last (R29, R36) -/
  lastop : s.status.lastop = s.latch.extractLsb' 0 4
  /-- POS is the one that goes with ERR (R101, R102) -/
  position : posFits s.status.err s.status.pos
  /-- ERR is one that the command accepted last can produce (R62, R101) -/
  cause : errFits s.status.err s.status.pos s.latch
  /-- an illegal command word that is no longer in flight has reported ILLEGAL_CMD (R57, R97) -/
  illegalReported : latchIllegal s → s.status.busy = false → s.status.err = .illegalCmd
  /-- while the reset input is asserted every register holds its reset value (R140) -/
  heldInReset : s.resetAsserted = true → resetBlock s = s

/-! ### What a claim compares of two states -/

/-- The model's own fields for the port are as they were. -/
def portUnchanged (s t : State) : Prop :=
  t.resetAsserted = s.resetAsserted ∧ t.requests = s.requests ∧ t.replies = s.replies ∧ t.freeReads = s.freeReads

/-- SEED and CODE are as they were. -/
def dataUnchanged (s t : State) : Prop := t.seed = s.seed ∧ t.code = s.code

/-- `t` is `s` after a completion with `err` and `pos`, SEED and CODE apart: BUSY 0, DONE 1, ERR, POS; OVR, LASTOP,
LATCH and the port as they were (R61). -/
def completedAs (s t : State) (err : ResultCode) (pos : BitVec 4) : Prop :=
  t.status = { s.status with busy := false, done := true, err := err, pos := pos } ∧
    t.latch = s.latch ∧ portUnchanged s t

/-- Every register of the block holds its reset value (R37). -/
def registersReset (s : State) : Prop :=
  s.seed = Vector.replicate 4 0#32 ∧ s.code = Vector.replicate 15 0#32 ∧ s.latch = 0#32 ∧
    s.status = { busy := false, done := false, ovr := false, err := .none, pos := 0xF#4, lastop := 0x0#4 }

/-- It is the port's turn, and `q` is the input it takes. -/
def portTakes (s : State) (q : Request) (rest : List Request) : Prop :=
  engineTurn s = false ∧ s.requests = q :: rest

/-- Two states agree on every register that a command reads (R62). -/
def sameOperands (i : Instr) (s t : State) : Prop :=
  match i with
  | .nop => True
  | .encode | .checksum | .phrase => s.seed = t.seed
  | .decode => ∀ n : Fin 13, s.code[n] = t.code[n]
  | .validate => s.code = t.code

/-- The result codes that a command can report (R62, R101). -/
def canReport (i : Instr) (err : ResultCode) : Prop :=
  match i with
  | .nop | .encode | .checksum | .phrase => err = .none
  | .decode => err = .none ∨ err = .range ∨ err = .invalidEncoding
  | .validate => err = .none ∨ err = .range ∨ err = .invalidEncoding ∨ err = .checksumMismatch

end Sys2Proof.Machine
end

