-- ==== Sys2Proof/Certificates/Slice0/Obligations.lean ====
section
/-! DEFINITION. The statements for the provers. Each docstring names the rule or the section of spec/ it formalises. -/

open Sys2Proof Sys2Proof.Machine

/-! ### Command words -/

/-- R56: with RSV zero, OP selects the command; the six words of the opcode map; OP 6 to 15 select none. -/
def Obligations.OpcodeFieldSelectsCommand : Prop :=
  (∀ v : Word, v.extractLsb' 4 28 = 0#28 →
    (v.extractLsb' 0 4 = 0x0#4 → decodeCommand v = .ok .nop) ∧
    (v.extractLsb' 0 4 = 0x1#4 → decodeCommand v = .ok .encode) ∧
    (v.extractLsb' 0 4 = 0x2#4 → decodeCommand v = .ok .decode) ∧
    (v.extractLsb' 0 4 = 0x3#4 → decodeCommand v = .ok .checksum) ∧
    (v.extractLsb' 0 4 = 0x4#4 → decodeCommand v = .ok .phrase) ∧
    (v.extractLsb' 0 4 = 0x5#4 → decodeCommand v = .ok .validate) ∧
    (6 ≤ (v.extractLsb' 0 4).toNat → ∃ e, decodeCommand v = .error e)) ∧
  decodeCommand 0x00000000#32 = .ok .nop ∧ decodeCommand 0x00000001#32 = .ok .encode ∧
  decodeCommand 0x00000002#32 = .ok .decode ∧ decodeCommand 0x00000003#32 = .ok .checksum ∧
  decodeCommand 0x00000004#32 = .ok .phrase ∧ decodeCommand 0x00000005#32 = .ok .validate

/-- R66: decoding an encoded command gives it back, only that word decodes to it, it is the zero extension of its 4-bit
opcode, and every word decodes to a command or is rejected. -/
def Obligations.DecodeAndEncodeAgree : Prop :=
  (∀ i : Instr, i.wellFormed = true → decodeCommand (encodeCommand i) = .ok i) ∧
  (∀ (v : Word) (i : Instr), decodeCommand v = .ok i → v = encodeCommand i) ∧
  (∀ (v : Word) (i : Instr), decodeCommand v = .ok i → v = (v.extractLsb' 0 4).setWidth 32) ∧
  (∀ v : Word, (∃ i, decodeCommand v = .ok i) ∨ ∃ e, decodeCommand v = .error e)

/-- R57: which words are illegal; that one is accepted like any other; that it completes with ILLEGAL_CMD, POS 0xF and
no change to SEED or CODE; and that exactly six words are legal. -/
def Obligations.IllegalWordsAreAcceptedAndRejected : Prop :=
  (∀ v : Word, (v.extractLsb' 4 28 ≠ 0#28 ∨ 6 ≤ (v.extractLsb' 0 4).toNat) ↔ ∃ e, decodeCommand v = .error e) ∧
  (∀ (s : State) (v : Word), s.status.busy = false →
    (issue s v).latch = v ∧ (issue s v).status.busy = true) ∧
  (∀ s : State, (∃ e, decodeCommand s.latch = .error e) →
    ∃ t, engineStep s = .next t ∧ completedAs s t .illegalCmd 0xF#4 ∧ dataUnchanged s t) ∧
  (∀ v : Word, (∃ i, decodeCommand v = .ok i) ↔ v ∈ [0#32, 1#32, 2#32, 3#32, 4#32, 5#32])

/-! ### One step -/

/-- 30_encoding.md section 2, 20_memory.md section 6: whose turn it is; that the engine's turn is the decoded command's
meaning at that very state; that an illegal word performs R97; that the port's turn serves the next input. The order of
turns is held as data by the model's choice (log 1, log 2). That the engine has no turn while the reset input is asserted
is deduced from 70_reset_and_hazards.md section 1 (log 7). -/
def Obligations.StepRunsTheDecodedCommand : Prop :=
  ∀ s : State,
    (engineTurn s = true ↔ s.status.busy = true ∧ s.resetAsserted = false ∧
      (s.requests = [] ∨ ∃ q rest, s.requests = q :: rest ∧ q.afterCompletion = true)) ∧
    (∀ i : Instr, engineTurn s = true → decodeCommand s.latch = .ok i → i.wellFormed = true → step s = exec i s) ∧
    (∀ e, engineTurn s = true → decodeCommand s.latch = .error e → step s = execIllegal s) ∧
    (∀ q rest, portTakes s q rest → step s = serveEvent { s with requests := rest } q.event) ∧
    (engineTurn s = false → s.requests = [] → step s = .next s)

/-- Log 10 (the model's choice): a state made by `withFetchWord` runs the command at its very next step, from the seed
and code buffers it had. -/
def Obligations.PlacedWordRunsNext : Prop :=
  ∀ (s : State) (i : Instr),
    let p := s.withFetchWord 32 (encodeCommand i).toNat
    step p = exec i p ∧ p.seed = s.seed ∧ p.code = s.code ∧ p.latch = encodeCommand i ∧ p.status.ovr = s.status.ovr

/-- 30_encoding.md section 2: from an idle block, the write of a command's word to CMD is accepted, and the next step,
when the completion comes before the next input or no input is left, is the command's meaning. That the order is data,
and that the engine moves when no input is left, is the model's choice (log 1, log 2). -/
def Obligations.CommandWriteIsAcceptedThenRuns : Prop :=
  ∀ (s : State) (i : Instr) (after : Bool) (rest : List Request),
    portTakes s (hostCmd i after) rest → s.resetAsserted = false → s.status.busy = false →
    completionFirst { s with requests := rest } = true →
    ∃ a, step s = .next a ∧
      a = { s with
        requests := rest
        replies := .writeDone :: s.replies
        latch := encodeCommand i
        status := { busy := true, done := false, ovr := s.status.ovr, err := .none, pos := 0xF#4,
                    lastop := opOfCommand i } } ∧
      step a = exec i a

/-- 43_control.md: an illegal word written to CMD of an idle block is accepted and completes in the next step when the
completion comes before the next input or no input is left (the model's choice of order, log 1, log 2); of the block only
STATUS and LATCH change, LASTOP being `v[3:0]`. -/
def Obligations.IllegalWordChangesStatusAndLatchOnly : Prop :=
  ∀ (s : State) (v : Word) (after : Bool) (rest : List Request),
    portTakes s (hostWr .cmd v after) rest → s.resetAsserted = false → s.status.busy = false →
    completionFirst { s with requests := rest } = true → (v.extractLsb' 4 28 ≠ 0#28 ∨ 6 ≤ (v.extractLsb' 0 4).toNat) →
    ∃ a, step s = .next a ∧
      step a = .next { s with
        requests := rest
        replies := .writeDone :: s.replies
        latch := v
        status := { busy := false, done := true, ovr := s.status.ovr, err := .illegalCmd, pos := 0xF#4,
                    lastop := v.extractLsb' 0 4 } }

/-! ### What each command does -/

/-- R96: NOP completes from every state, sets ERR to NONE and changes no data register, and it is the only command with
an empty write set. -/
def Obligations.NopCompletesAndWritesNothing : Prop :=
  (∀ s : State, exec .nop s =
    .next { s with status := { s.status with busy := false, done := true, err := .none, pos := 0xF#4 } }) ∧
  (∀ i : Instr, (∀ r, writeSet i r = false) → i = .nop)

/-- 40_codec.md sections 1 and 2: ENCODE completes from every state; code n holds stream bits 10n to 10n+9, the first
one as its bit of weight 512, and no other bit; CODE13, CODE14, SEED, LATCH, OVR, LASTOP and the port stay. -/
def Obligations.EncodeWritesTheTenBitGroups : Prop :=
  ∀ s : State, ∃ t, exec .encode s = .next t ∧ completedAs s t .none 0xF#4 ∧ t.seed = s.seed ∧
    t.code[13] = s.code[13] ∧ t.code[14] = s.code[14] ∧
    ∀ n : Fin 13, (t.code[n]).toNat < 1024 ∧
      ∀ k : Fin 10, (t.code[n]).getLsbD (9 - k.val) = streamBit (seedBytes s) (10 * n.val + k.val)

/-- R70: the seed bit stream takes byte 0 first and each byte most significant bit first; it is the big-endian number
S of the 16 bytes, read from bit 127 down. -/
def Obligations.BitStreamReadsTheSeedBigEndian : Prop :=
  ∀ s : State,
    (∀ t : Fin 128, streamBit (seedBytes s) t.val = (seedByte s (Fin.ofNat 16 (t.val / 8))).getLsbD (7 - t.val % 8) ∧
      streamBit (seedBytes s) t.val = (bigEndian (seedBytes s)).getLsbD (127 - t.val)) ∧
    (bigEndian (seedBytes s)).toNat = ∑ i : Fin 16, (seedByte s i).toNat <<< (8 * (15 - i.val))

/-- R73: after a completed ENCODE, CODE0 to CODE12 hold a well-formed 13-tuple. -/
def Obligations.EncodeGivesAWellFormedTuple : Prop :=
  ∀ s t : State, exec .encode s = .next t →
    (∀ n : Fin 13, (t.code[n]).toNat < 1024) ∧ (t.code[12]).toNat % 4 = 0

/-- R78: where each seed bit lands among the codes an ENCODE writes; which stream bits a code depends on; code 12 holds
seed byte 15; a change to one seed byte changes at most two codes. -/
def Obligations.SeedBitsLandInTheirCodes : Prop :=
  ∀ s t : State, exec .encode s = .next t →
    (∀ (i : Fin 16) (j : Fin 8),
      (codeReg t (Fin.ofNat 15 ((8 * i.val + 7 - j.val) / 10))).getLsbD (9 - (8 * i.val + 7 - j.val) % 10) =
        (seedByte s i).getLsbD j.val) ∧
    (∀ j : Fin 8, (t.code[12]).getLsbD (2 + j.val) = (seedByte s 15).getLsbD j.val) ∧
    (∀ s' t' : State, exec .encode s' = .next t' →
      (∀ n : Fin 13,
        (∀ k : Fin 10, streamBit (seedBytes s) (10 * n.val + k.val) = streamBit (seedBytes s') (10 * n.val + k.val)) →
        t.code[n] = t'.code[n]) ∧
      (∀ i : Fin 16, (∀ m : Fin 16, m ≠ i → seedByte s m = seedByte s' m) →
        ((List.finRange 13).filter fun n => t.code[n] != t'.code[n]).length ≤ 2))

/-- 40_codec.md section 3: DECODE completes with NONE when CODE0 to CODE12 are a well-formed 13-tuple; bit j of seed
byte i is then the bit of the codes at stream position 8i + 7 - j; CODE, LATCH, OVR, LASTOP and the port stay. -/
def Obligations.DecodeRecoversTheSeedBits : Prop :=
  ∀ s : State, (∀ n : Fin 13, (s.code[n]).toNat < 1024) → (s.code[12]).toNat % 4 = 0 →
    ∃ t, exec .decode s = .next t ∧ completedAs s t .none 0xF#4 ∧ t.code = s.code ∧
      ∀ (i : Fin 16) (j : Fin 8), (seedByte t i).getLsbD j.val =
        (codeReg s (Fin.ofNat 15 ((8 * i.val + 7 - j.val) / 10))).getLsbD (9 - (8 * i.val + 7 - j.val) % 10)

/-- 40_codec.md sections 3 and 4: the number V that DECODE builds is the sum of the codes at weights 2^(10*(12-n)), the
concatenation never carrying, and the decoded seed is V without its two trailing bits. -/
def Obligations.JoinedCodesNeverCarry : Prop :=
  ∀ cs : DataCodes,
    (joinCodes cs).toNat = ∑ n : Fin 13, (cs[n]).toNat <<< (10 * (12 - n.val)) ∧
    (bigEndian (decodeCodes cs)).toNat = (joinCodes cs).toNat / 4

/-- R104: a command that reads code registers completes with RANGE at the lowest position that holds 1024 or more and
writes nothing; a CODE register stores any 32-bit value. -/
def Obligations.RangeIsReportedAtTheLowestPosition : Prop :=
  (∀ (s : State) (i : Instr) (n : Fin 15), ((i = .decode ∧ n.val < 13) ∨ i = .validate) →
    1024 ≤ (codeReg s n).toNat → (∀ m : Fin 15, m < n → (codeReg s m).toNat < 1024) →
    ∃ t, exec i s = .next t ∧ completedAs s t .range (BitVec.ofNat 4 n.val) ∧ dataUnchanged s t) ∧
  (∀ (s : State) (n : Fin 15) (v : Word), s.status.busy = false → codeReg (writeReg s (.code n) v) n = v)

/-- R105: after the RANGE check passes, a CODE12 that is no multiple of 4 makes DECODE and VALIDATE complete with
INVALID_ENCODING and POS 12, and nothing is written. -/
def Obligations.InvalidEncodingIsReported : Prop :=
  ∀ (s : State) (i : Instr),
    ((i = .decode ∧ ∀ n : Fin 15, n.val < 13 → (codeReg s n).toNat < 1024) ∨
     (i = .validate ∧ ∀ n : Fin 15, (codeReg s n).toNat < 1024)) →
    (s.code[12]).toNat % 4 ≠ 0 →
    ∃ t, exec i s = .next t ∧ completedAs s t .invalidEncoding 12#4 ∧ dataUnchanged s t

/-- R81: CHECKSUM completes from every state; CODE13 and CODE14 hold the two ten-bit big-endian fields of the first 20
digest bits, by R81's two formulas; CODE0 to CODE12, SEED, LATCH and the port stay; digest bits after the twentieth are
never used. -/
def Obligations.ChecksumWritesTheFirstTwentyDigestBits : Prop :=
  (∀ s : State, ∃ t, exec .checksum s = .next t ∧ completedAs s t .none 0xF#4 ∧ t.seed = s.seed ∧
    (∀ n : Fin 13, t.code[n] = s.code[n]) ∧
    (let d := Config.digest (seedBytes s)
     (t.code[13]).toNat = ((digestByte d 0).toNat <<< 2) ||| ((digestByte d 1).toNat >>> 6) ∧
     (t.code[14]).toNat = (((digestByte d 1).toNat &&& 0x3F) <<< 4) ||| ((digestByte d 2).toNat >>> 4) ∧
     ∀ k : Fin 10, (t.code[13]).getLsbD (9 - k.val) = digestBit d k.val ∧
       (t.code[14]).getLsbD (9 - k.val) = digestBit d (10 + k.val))) ∧
  (∀ d d' : Vector Byte Config.digestLen, (∀ k : Fin 20, digestBit d k.val = digestBit d' k.val) →
    checksumWord13 d = checksumWord13 d' ∧ checksumWord14 d = checksumWord14 d')

/-- R83: two CHECKSUM commands from the same seed, on any two states, write the same two words. -/
def Obligations.ChecksumDependsOnTheSeedAlone : Prop :=
  ∀ s s' : State, s.seed = s'.seed →
    ∃ t t', exec .checksum s = .next t ∧ exec .checksum s' = .next t' ∧
      t.code[13] = t'.code[13] ∧ t.code[14] = t'.code[14]

/-- R87: PHRASE completes from every state; it writes the fifteen values that ENCODE followed by CHECKSUM write from
the same seed; position 12 is a multiple of 4 and positions 13 and 14 are the checksum of the seed that positions 0 to
12 decode to; SEED, LATCH, OVR, LASTOP and the port stay. -/
def Obligations.PhraseIsEncodeThenChecksum : Prop :=
  ∀ s : State, ∃ t e u, exec .phrase s = .next t ∧ exec .encode s = .next e ∧ exec .checksum e = .next u ∧
    t.code = u.code ∧ completedAs s t .none 0xF#4 ∧ t.seed = s.seed ∧
    (t.code[12]).toNat % 4 = 0 ∧
    t.code[13] = (checksumWords (decodeCodes (dataCodes t))).1.setWidth 32 ∧
    t.code[14] = (checksumWords (decodeCodes (dataCodes t))).2.setWidth 32

/-- R89: VALIDATE completes from every state, and with ERR NONE exactly when every code is below 1024, CODE12 is a
multiple of 4 and (CODE13, CODE14) are the checksum of the decoded seed; its result and what it writes on a match do
not depend on the previous seed buffer. -/
def Obligations.ValidateAcceptsExactlyValidPhrases : Prop :=
  ∀ s : State, ∃ t, exec .validate s = .next t ∧
    (t.status.err = .none ↔
      (∀ n : Fin 15, (codeReg s n).toNat < 1024) ∧ (s.code[12]).toNat % 4 = 0 ∧
      s.code[13] = (checksumWords (decodeCodes (dataCodes s))).1.setWidth 32 ∧
      s.code[14] = (checksumWords (decodeCodes (dataCodes s))).2.setWidth 32) ∧
    ∀ s' : State, s'.code = s.code → ∃ t', exec .validate s' = .next t' ∧
      t'.status.err = t.status.err ∧ t'.status.pos = t.status.pos ∧ (t.status.err = .none → t'.seed = t.seed)

/-- 42_phrase_validate.md section 3: on a valid phrase VALIDATE completes with NONE and writes the seed that DECODE
would write; CODE, LATCH, OVR, LASTOP and the port stay. -/
def Obligations.ValidateWritesTheDecodedSeed : Prop :=
  ∀ s : State, (∀ n : Fin 15, (codeReg s n).toNat < 1024) → (s.code[12]).toNat % 4 = 0 →
    s.code[13] = (checksumWords (decodeCodes (dataCodes s))).1.setWidth 32 →
    s.code[14] = (checksumWords (decodeCodes (dataCodes s))).2.setWidth 32 →
    ∃ t u, exec .validate s = .next t ∧ exec .decode s = .next u ∧ completedAs s t .none 0xF#4 ∧
      t.code = s.code ∧ t.seed = u.seed ∧ seedBytes t = decodeCodes (dataCodes s)

/-- 42_phrase_validate.md section 3: when the range and encoding checks pass and a checksum word differs, VALIDATE
completes with CHECKSUM_MISMATCH, POS 0xF, and writes nothing. -/
def Obligations.ValidateReportsAMismatch : Prop :=
  ∀ s : State, (∀ n : Fin 15, (codeReg s n).toNat < 1024) → (s.code[12]).toNat % 4 = 0 →
    (s.code[13] ≠ (checksumWords (decodeCodes (dataCodes s))).1.setWidth 32 ∨
     s.code[14] ≠ (checksumWords (decodeCodes (dataCodes s))).2.setWidth 32) →
    ∃ t, exec .validate s = .next t ∧ completedAs s t .checksumMismatch 0xF#4 ∧ dataUnchanged s t

/-- R76: DECODE from any state that holds the codes ENCODE wrote, whatever its seed buffer, completes with NONE and
leaves the seed ENCODE read; DECODE of a well-formed 13-tuple completes with NONE, and ENCODE from any state that holds
the resulting seed, whatever its code buffer, writes the tuple. -/
def Obligations.EncodeDecodeRoundTrip : Prop :=
  (∀ s : State, ∃ t, exec .encode s = .next t ∧
    ∀ v : State, (∀ n : Fin 13, v.code[n] = t.code[n]) →
      ∃ u, exec .decode v = .next u ∧ u.status.err = .none ∧ u.seed = s.seed) ∧
  (∀ s : State, (∀ n : Fin 13, (s.code[n]).toNat < 1024) → (s.code[12]).toNat % 4 = 0 →
    ∃ t, exec .decode s = .next t ∧ t.status.err = .none ∧
      ∀ v : State, v.seed = t.seed → ∃ u, exec .encode v = .next u ∧ ∀ n : Fin 13, u.code[n] = s.code[n])

/-- 40_codec.md section 4: every well-formed 13-tuple is what ENCODE writes from exactly one content of the seed
buffer. -/
def Obligations.EveryWellFormedTupleHasOneSeed : Prop :=
  ∀ cs : Vector Word 13, wellFormedTuple cs = true →
    ∃! b : Vector Word 4, ∀ s : State, s.seed = b →
      ∃ t, exec .encode s = .next t ∧ ∀ n : Fin 13, t.code[n] = cs[n]

/-- R90: PHRASE, then VALIDATE with the code buffer as PHRASE left it, completes with NONE and leaves the seed buffer
equal to the seed PHRASE read. -/
def Obligations.PhraseThenValidateKeepsTheSeed : Prop :=
  ∀ s : State, ∃ t, exec .phrase s = .next t ∧
    ∀ v : State, v.code = t.code → ∃ u, exec .validate v = .next u ∧ u.status.err = .none ∧ u.seed = s.seed

/-- 42_phrase_validate.md section 3: changing one checksum word of an accepted phrase to a different code makes
VALIDATE report CHECKSUM_MISMATCH and leave the seed buffer. -/
def Obligations.ChangedChecksumWordIsRejected : Prop :=
  ∀ (s : State) (n : Fin 15) (v : Word), (∃ t, exec .validate s = .next t ∧ t.status.err = .none) →
    13 ≤ n.val → v.toNat < 1024 → v ≠ codeReg s n →
    ∃ t, exec .validate { s with code := s.code.set n v } = .next t ∧
      completedAs s t .checksumMismatch 0xF#4 ∧ t.seed = s.seed ∧ t.code = s.code.set n v

/-! ### Completion and operands -/

/-- R61: what `complete(err, pos, W)` writes for any result, and that every command and every illegal word ends in
one. -/
def Obligations.CompletionCommitsOnSuccessOnly : Prop :=
  (∀ (s : State) (err : ResultCode) (pos : BitVec 4) (W : List RegWrite),
    let t := complete s { err := err, pos := pos, writes := W }
    completedAs s t err pos ∧
    (err = .none → t.seed = (applyWrites s W).seed ∧ t.code = (applyWrites s W).code) ∧
    (err ≠ .none → dataUnchanged s t)) ∧
  (∀ (i : Instr) (s : State), ∃ r, exec i s = .next (complete s r)) ∧
  (∀ s : State, ∃ r, execIllegal s = .next (complete s r))

/-- R62: each command reads and writes the fixed registers of the table and reports only the codes of the table: two
states that agree on what it reads get the same result code and position and, on success, the same values written;
registers outside its write set stay; an illegal word reads and writes nothing and always reports ILLEGAL_CMD. -/
def Obligations.CommandsUseTheirFixedRegisters : Prop :=
  (∀ r, writeSet .nop r = false) ∧
  (∀ r, writeSet .encode r = true ↔ ∃ n : Fin 15, n.val ≤ 12 ∧ r = .code n) ∧
  (∀ r, writeSet .decode r = true ↔ ∃ k, r = .seed k) ∧
  (∀ r, writeSet .checksum r = true ↔ r = .code 13 ∨ r = .code 14) ∧
  (∀ r, writeSet .phrase r = true ↔ ∃ n, r = .code n) ∧
  (∀ r, writeSet .validate r = true ↔ ∃ k, r = .seed k) ∧
  (∀ (i : Instr) (s s' : State), sameOperands i s s' → ∃ t t', exec i s = .next t ∧ exec i s' = .next t' ∧
    canReport i t.status.err ∧ t.status.err = t'.status.err ∧ t.status.pos = t'.status.pos ∧
    (t.status.err = .none →
      (∀ k, writeSet i (.seed k) = true → t.seed[k] = t'.seed[k]) ∧
      (∀ n, writeSet i (.code n) = true → t.code[n] = t'.code[n])) ∧
    (∀ k, writeSet i (.seed k) = false → t.seed[k] = s.seed[k]) ∧
    (∀ n, writeSet i (.code n) = false → t.code[n] = s.code[n])) ∧
  (∀ s : State, ∃ t, execIllegal s = .next t ∧ t.status.err = .illegalCmd ∧ dataUnchanged s t)

/-! ### The port: writes -/

/-- R58: a write to CMD is dropped with OVR set while BUSY = 1, else accepted; no data register changes. -/
def Obligations.IssueAcceptsOrDrops : Prop :=
  ∀ (s : State) (v : Word) (after : Bool) (rest : List Request),
    portTakes s (hostWr .cmd v after) rest → s.resetAsserted = false →
    (s.status.busy = true → step s = .next { s with
      requests := rest
      replies := .writeDone :: s.replies
      status := { s.status with ovr := true } }) ∧
    (s.status.busy = false → step s = .next { s with
      requests := rest
      replies := .writeDone :: s.replies
      latch := v
      status := { s.status with busy := true, done := false, err := .none, pos := 0xF#4, lastop := v.extractLsb' 0 4 } })

/-- R146: the effect of a write to each register while BUSY = 1. -/
def Obligations.WritesWhileBusy : Prop :=
  ∀ (s : State) (r : Reg) (v : Word) (after : Bool) (rest : List Request),
    portTakes s (hostWr r v after) rest → s.resetAsserted = false → s.status.busy = true →
    ∃ t, step s = .next t ∧ t.requests = rest ∧ t.replies = .writeDone :: s.replies ∧ t.freeReads = s.freeReads ∧
      t.resetAsserted = false ∧
      match r with
      | .cmd | .seed _ | .code _ =>
          t.status = { s.status with ovr := true } ∧ t.latch = s.latch ∧ dataUnchanged s t
      | .status =>
          t.status = { s.status with done := s.status.done && !v[1], ovr := s.status.ovr && !v[3] } ∧
            t.latch = s.latch ∧ dataUnchanged s t
      | .ctrl =>
          if v[0] then registersReset t else t.status = s.status ∧ t.latch = s.latch ∧ dataUnchanged s t
      | .id => t.status = s.status ∧ t.latch = s.latch ∧ dataUnchanged s t

/-- 20_memory.md section 3: the effect of a write to each register other than CMD while BUSY = 0: SEEDk and CODEn take
the value and every other register stays; STATUS clears DONE and OVR by their W1C bits; ID and CTRL with bit 0 zero
have no effect. -/
def Obligations.WritesWhileIdle : Prop :=
  ∀ (s : State) (r : Reg) (v : Word) (after : Bool) (rest : List Request),
    portTakes s (hostWr r v after) rest → s.resetAsserted = false → s.status.busy = false →
    (∀ k, r = .seed k → step s = .next { s with
      requests := rest, replies := .writeDone :: s.replies, seed := s.seed.set k v }) ∧
    (∀ n, r = .code n → step s = .next { s with
      requests := rest, replies := .writeDone :: s.replies, code := s.code.set n v }) ∧
    (r = .status → step s = .next { s with
      requests := rest, replies := .writeDone :: s.replies,
      status := { s.status with done := s.status.done && !v[1], ovr := s.status.ovr && !v[3] } }) ∧
    ((r = .id ∨ (r = .ctrl ∧ v[0] = false)) → step s = .next { s with
      requests := rest, replies := .writeDone :: s.replies })

/-- R142: a write to CTRL with bit 0 = 1 resets every register at once, BUSY or not, whatever the other bits are; the
registers are then those that a hardware reset leaves. -/
def Obligations.SoftResetRestoresTheResetState : Prop :=
  ∀ (s : State) (v : Word) (after : Bool) (rest : List Request),
    portTakes s (hostWr .ctrl v after) rest → s.resetAsserted = false → v[0] = true →
    ∃ t h, step s = .next t ∧ registersReset t ∧ t.requests = rest ∧
      serveEvent s .releaseReset = .next h ∧
      t.seed = h.seed ∧ t.code = h.code ∧ t.status = h.status ∧ t.latch = h.latch

/-- R140: assertion and release of the reset input put every register at its reset value, a command in flight being
abandoned; from a state held in reset every step leaves the registers there; after the release the block is idle. -/
def Obligations.HardwareResetHoldsTheResetState : Prop :=
  (∀ (s : State) (after : Bool) (rest : List Request),
    portTakes s { event := .assertReset, afterCompletion := after } rest →
    ∃ t, step s = .next t ∧ registersReset t ∧ t.resetAsserted = true ∧ t.requests = rest) ∧
  (∀ (s : State) (after : Bool) (rest : List Request),
    portTakes s { event := .releaseReset, afterCompletion := after } rest →
    ∃ t, step s = .next t ∧ registersReset t ∧ t.resetAsserted = false ∧ t.status.busy = false ∧ t.requests = rest) ∧
  (∀ s t : State, s.resetAsserted = true → registersReset s → step s = .next t → registersReset t)

/-! ### The port: reads and bus errors -/

/-- 20_memory.md section 3: a read answers the register's value and changes nothing of the block, when the register is
not in the write set of a command in flight. -/
def Obligations.ReadsAnswerTheRegister : Prop :=
  ∀ (s : State) (r : Reg) (after : Bool) (rest : List Request),
    portTakes s (hostRd r after) rest → s.resetAsserted = false → inFlightTarget s r = false →
    ∃ v, step s = .next { s with requests := rest, replies := .readData v :: s.replies } ∧
      match r with
      | .id => v = 0x5EED0100#32 ||| Config.digestId.setWidth 32
      | .ctrl => v = 0#32
      | .cmd => v = 0#32
      | .status => v = s.status.toWord
      | .seed k => v = s.seed[k]
      | .code n => v = s.code[n]

/-- 70_reset_and_hazards.md section 3: a read of a register in the write set of the command in flight answers some
32-bit value, of which nothing is said (the model's free value, log 4), and changes no register; while BUSY = 1 a read
of STATUS answers BUSY 1, DONE 0, ERR NONE, POS 0xF and the current OVR and LASTOP. -/
def Obligations.ReadsWhileBusy : Prop :=
  (∀ (s : State) (r : Reg), inFlightTarget s r = true ↔
    s.status.busy = true ∧ ∃ i, decodeCommand s.latch = .ok i ∧ writeSet i r = true) ∧
  (∀ (s : State) (r : Reg) (after : Bool) (rest : List Request),
    portTakes s (hostRd r after) rest → s.resetAsserted = false → inFlightTarget s r = true →
    ∃ v, step s = .next { s with
      requests := rest, replies := .readData v :: s.replies, freeReads := s.freeReads + 1 }) ∧
  (∀ (s : State) (after : Bool) (rest : List Request),
    portTakes s (hostRd .status after) rest → s.resetAsserted = false → Consistent s → s.status.busy = true →
    ∃ v, step s = .next { s with requests := rest, replies := .readData v :: s.replies } ∧
      v.toNat = s.status.lastop.toNat * 4096 + 0xF00 + s.status.ovr.toNat * 8 + 1)

/-- R44: an access of the window whose width is not 4, whose address is not a multiple of 4 or whose offset is reserved
is a bus error that changes no register and returns no data; no other access of the window is one. -/
def Obligations.BusErrorsChangeNothing : Prop :=
  ∀ (s : State) (a : Access) (after : Bool) (rest : List Request) (o : Nat),
    portTakes s { event := .access a, afterCompletion := after } rest → s.resetAsserted = false →
    windowOffset (accessAddr a) = some o →
    if accessWidth a ≠ 4 ∨ accessAddr a % 4 ≠ 0 ∨ 0x5C ≤ o then
      step s = .next { s with
        requests := rest, replies := .busError (accessAddr a) (accessDirection a) :: s.replies }
    else ∃ t x, step s = .next t ∧ t.replies = x :: s.replies ∧ ∀ ad d, x ≠ .busError ad d

/-- Log 6 and log 7 (the model's choices; 20_memory.md sections 1 and 5, 70_reset_and_hazards.md section 1): an access
outside the window is a fault, and an access of the window while the reset input is asserted is given no step. -/
def Obligations.UnservableAccessStops : Prop :=
  ∀ (s : State) (a : Access) (after : Bool) (rest : List Request),
    portTakes s { event := .access a, afterCompletion := after } rest →
    ((accessAddr a < Config.base ∨ Config.base + 256 ≤ accessAddr a) →
      step s = .fault (.outsideWindow (accessAddr a))) ∧
    (∀ o, windowOffset (accessAddr a) = some o → s.resetAsserted = true → step s = .refused .accessDuringReset)

/-- 60_exceptions.md section 2, R110's STATUS read: for a read of STATUS and a completion in one cycle both orders are
steps of the model: served first the read finds BUSY = 1; served after the completion it finds BUSY = 0 and DONE = 1.
That a flag of the input chooses the order is the model's form (log 1). -/
def Obligations.EitherOrderIsAdmitted : Prop :=
  ∀ (s : State) (rest : List Request), s.status.busy = true → s.resetAsserted = false →
    (s.requests = hostRd .status false :: rest →
      ∃ t v, step s = .next t ∧ t.replies = .readData v :: s.replies ∧ v[0] = true ∧ t.status = s.status) ∧
    (s.requests = hostRd .status true :: rest →
      ∃ t u v, step s = .next t ∧ t.requests = s.requests ∧ t.replies = s.replies ∧ step t = .next u ∧
        u.replies = .readData v :: s.replies ∧ v[0] = false ∧ v[1] = true)

/-! ### Registers and the window -/

/-- R31: ID reads MAGIC, EDITION and DIGEST_ID in every state, and a write to it has no effect. -/
def Obligations.IdIsHardwired : Prop :=
  ∀ (s : State) (v : Word),
    (regValue s .id).extractLsb' 16 16 = 0x5EED#16 ∧ (regValue s .id).extractLsb' 8 8 = 0x01#8 ∧
    (regValue s .id).extractLsb' 0 8 = Config.digestId ∧ writeReg s .id v = s

/-- 10_state.md section 3: the register map: each register stands at its one offset, no offset names two, and the
offsets from 0x05C on name none. -/
def Obligations.EachOffsetNamesOneRegister : Prop :=
  regAt 0x000 = some .id ∧ regAt 0x004 = some .ctrl ∧ regAt 0x008 = some .cmd ∧ regAt 0x00C = some .status ∧
  (∀ k : Fin 4, regAt (0x010 + 4 * k.val) = some (.seed k)) ∧
  (∀ n : Fin 15, regAt (0x020 + 4 * n.val) = some (.code n)) ∧
  (∀ o o' r, regAt o = some r → regAt o' = some r → o = o') ∧
  (∀ o, 0x05C ≤ o ∨ o % 4 ≠ 0 → regAt o = none)

/-- R41: byte o + j of the register at offset o is its bits [8j+7 : 8j]; seed byte i is the byte at window offset
0x010 + i. -/
def Obligations.WindowBytesAreLittleEndian : Prop :=
  ∀ s : State,
    (∀ (r : Reg) (j : Fin 4),
      windowByte s (offsetOf r + j.val) = some ((regValue s r).extractLsb' (8 * j.val) 8)) ∧
    (∀ i : Fin 16, windowByte s (0x010 + i.val) = some (seedByte s i))

/-- 10_state.md section 5: the STATUS word by its fields: LASTOP<<12 | POS<<8 | ERR<<4 | OVR<<3 | DONE<<1 | BUSY, every
other bit 0, with the numeric result codes of 60_exceptions.md section 1. -/
def Obligations.StatusWordLayout : Prop :=
  (∀ st : Status, st.toWord.toNat =
    st.lastop.toNat * 4096 + st.pos.toNat * 256 + st.err.bits.toNat * 16 + st.ovr.toNat * 8 + st.done.toNat * 2 +
      st.busy.toNat) ∧
  ResultCode.none.bits = 0#4 ∧ ResultCode.invalidEncoding.bits = 1#4 ∧ ResultCode.checksumMismatch.bits = 2#4 ∧
  ResultCode.range.bits = 3#4 ∧ ResultCode.illegalCmd.bits = 4#4

/-- R37: the reset state of every piece of state the spec lists; ID, CTRL and CMD by what a read finds. The model's own
fields are not part of it. -/
def Obligations.ResetStateIsAsStated : Prop :=
  registersReset State.reset ∧ State.reset.status.toWord = 0x00000F00#32 ∧
  regValue State.reset .id = 0x5EED0100#32 ||| Config.digestId.setWidth 32 ∧
  regValue State.reset .ctrl = 0#32 ∧ regValue State.reset .cmd = 0#32

/-! ### Whole-machine rules -/

/-- 10_state.md section 5 (STATUS.OVR): OVR goes from 1 to 0 only by a STATUS write with bit 3, a CTRL write with bit 0
or the reset input, and from 0 to 1 only by a write to CMD, SEEDk or CODEn while BUSY = 1. -/
def Obligations.OverrunIsSticky : Prop :=
  ∀ s t : State, step s = .next t →
    (s.status.ovr = true → t.status.ovr = false →
      engineTurn s = false ∧ ∃ q rest, s.requests = q :: rest ∧
        (q.event = .assertReset ∨ q.event = .releaseReset ∨
         ∃ ad w v o, q.event = .access (.write ad w v) ∧ windowOffset ad = some o ∧
           ((legalTarget o w = some .status ∧ v[3] = true) ∨
            (legalTarget o w = some .ctrl ∧ v[0] = true)))) ∧
    (s.status.ovr = false → t.status.ovr = true →
      s.status.busy = true ∧ engineTurn s = false ∧
        ∃ q rest ad w v o r, s.requests = q :: rest ∧ q.event = .access (.write ad w v) ∧ windowOffset ad = some o ∧
          legalTarget o w = some r ∧ (r = .cmd ∨ (∃ k, r = .seed k) ∨ ∃ n, r = .code n))

/-- 10_state.md section 4: while a command is in flight, every step but its completion leaves SEED, CODE, LATCH and
LASTOP and keeps it in flight, or resets the block. -/
def Obligations.CommandInFlightKeepsItsOperands : Prop :=
  ∀ s t : State, s.status.busy = true → engineTurn s = false → step s = .next t →
    (dataUnchanged s t ∧ t.latch = s.latch ∧ t.status.busy = true ∧ t.status.lastop = s.status.lastop) ∨
    registersReset t

/-- 10_state.md section 5, 60_exceptions.md section 1: every step keeps STATUS, LATCH and the reset input consistent:
the fields of STATUS while BUSY, LASTOP against LATCH, POS against ERR, ERR against the command that ran. -/
def Obligations.EveryStepKeepsConsistent : Prop :=
  ∀ s t : State, Consistent s → step s = .next t → Consistent t

/-- 10_state.md section 6: the reset state is consistent. -/
def Obligations.ResetIsConsistent : Prop := Consistent State.reset

/-- 60_exceptions.md section 1 ("Errors are never fatal to the block"): from every state whose pending inputs can all
be served, every run answers a next state at every step, whatever the commands and their results. That a step with no
input pending and no command in flight answers the same state is the model's choice (log 2); which inputs can be served
rests on log 6 and log 7. -/
def Obligations.ServableInputsNeverStop : Prop :=
  ∀ (k : Nat) (s : State), servable s = true → ∃ t, runSteps k s = .next t ∧ servable t = true

/-- 70_reset_and_hazards.md section 4, 30_encoding.md section 2: a command in flight is no longer in flight after at
most one step more than there are pending inputs. That an empty list of inputs lets the engine move is how the model
holds the spec's fairness assumption (log 2). -/
def Obligations.AcceptedCommandFinishes : Prop :=
  ∀ s : State, servable s = true → s.resetAsserted = false → s.status.busy = true →
    ∃ k t, k ≤ s.requests.length + 1 ∧ runSteps k s = .next t ∧ t.status.busy = false
end

