-- ==== Sys2Proof/Laws/State.lean ====
section
/-! SUPPORT. The small lemmas of State and Status: for every update, what each field holds afterwards. All are true by
unfolding the update once, so that no later proof unfolds it again. -/

namespace Sys2Proof.Machine

/-! ### STATUS -/

@[simp] theorem Status.accepted_busy (st : Status) (v : Word) : (st.accepted v).busy = true := rfl
@[simp] theorem Status.accepted_done (st : Status) (v : Word) : (st.accepted v).done = false := rfl
@[simp] theorem Status.accepted_ovr (st : Status) (v : Word) : (st.accepted v).ovr = st.ovr := rfl
@[simp] theorem Status.accepted_err (st : Status) (v : Word) : (st.accepted v).err = .none := rfl
@[simp] theorem Status.accepted_pos (st : Status) (v : Word) : (st.accepted v).pos = 0xF#4 := rfl
@[simp] theorem Status.accepted_lastop (st : Status) (v : Word) : (st.accepted v).lastop = v.extractLsb' 0 4 := rfl

@[simp] theorem Status.completed_busy (st : Status) (e : ResultCode) (p : BitVec 4) : (st.completed e p).busy = false := rfl
@[simp] theorem Status.completed_done (st : Status) (e : ResultCode) (p : BitVec 4) : (st.completed e p).done = true := rfl
@[simp] theorem Status.completed_ovr (st : Status) (e : ResultCode) (p : BitVec 4) : (st.completed e p).ovr = st.ovr := rfl
@[simp] theorem Status.completed_err (st : Status) (e : ResultCode) (p : BitVec 4) : (st.completed e p).err = e := rfl
@[simp] theorem Status.completed_pos (st : Status) (e : ResultCode) (p : BitVec 4) : (st.completed e p).pos = p := rfl
@[simp] theorem Status.completed_lastop (st : Status) (e : ResultCode) (p : BitVec 4) : (st.completed e p).lastop = st.lastop := rfl

@[simp] theorem Status.overrun_busy (st : Status) : (st.overrun).busy = st.busy := rfl
@[simp] theorem Status.overrun_done (st : Status) : (st.overrun).done = st.done := rfl
@[simp] theorem Status.overrun_ovr (st : Status) : (st.overrun).ovr = true := rfl
@[simp] theorem Status.overrun_err (st : Status) : (st.overrun).err = st.err := rfl
@[simp] theorem Status.overrun_pos (st : Status) : (st.overrun).pos = st.pos := rfl
@[simp] theorem Status.overrun_lastop (st : Status) : (st.overrun).lastop = st.lastop := rfl

@[simp] theorem Status.writeOneToClear_busy (st : Status) (v : Word) : (st.writeOneToClear v).busy = st.busy := rfl
@[simp] theorem Status.writeOneToClear_done (st : Status) (v : Word) : (st.writeOneToClear v).done = (st.done && !v[1]) := rfl
@[simp] theorem Status.writeOneToClear_ovr (st : Status) (v : Word) : (st.writeOneToClear v).ovr = (st.ovr && !v[3]) := rfl
@[simp] theorem Status.writeOneToClear_err (st : Status) (v : Word) : (st.writeOneToClear v).err = st.err := rfl
@[simp] theorem Status.writeOneToClear_pos (st : Status) (v : Word) : (st.writeOneToClear v).pos = st.pos := rfl
@[simp] theorem Status.writeOneToClear_lastop (st : Status) (v : Word) : (st.writeOneToClear v).lastop = st.lastop := rfl

@[simp] theorem Status.reset_busy : Status.reset.busy = false := rfl
@[simp] theorem Status.reset_done : Status.reset.done = false := rfl
@[simp] theorem Status.reset_ovr : Status.reset.ovr = false := rfl
@[simp] theorem Status.reset_err : Status.reset.err = .none := rfl
@[simp] theorem Status.reset_pos : Status.reset.pos = 0xF#4 := rfl
@[simp] theorem Status.reset_lastop : Status.reset.lastop = 0x0#4 := rfl

/-! ### The state after reset -/

@[simp] theorem State.reset_seed : State.reset.seed = Vector.replicate 4 0#32 := rfl
@[simp] theorem State.reset_code : State.reset.code = Vector.replicate 15 0#32 := rfl
@[simp] theorem State.reset_status : State.reset.status = Status.reset := rfl
@[simp] theorem State.reset_latch : State.reset.latch = 0#32 := rfl
@[simp] theorem State.reset_resetAsserted : State.reset.resetAsserted = false := rfl
@[simp] theorem State.reset_requests : State.reset.requests = [] := rfl
@[simp] theorem State.reset_replies : State.reset.replies = [] := rfl
@[simp] theorem State.reset_freeReads : State.reset.freeReads = 0 := rfl

/-! ### Updates of the state -/

@[simp] theorem applyWrite_seedWrite_seed (s : State) (k : Fin 4) (v : Word) : (applyWrite s (.seed k v)).seed = s.seed.set k v := rfl
@[simp] theorem applyWrite_seedWrite_code (s : State) (k : Fin 4) (v : Word) : (applyWrite s (.seed k v)).code = s.code := rfl
@[simp] theorem applyWrite_seedWrite_status (s : State) (k : Fin 4) (v : Word) : (applyWrite s (.seed k v)).status = s.status := rfl
@[simp] theorem applyWrite_seedWrite_latch (s : State) (k : Fin 4) (v : Word) : (applyWrite s (.seed k v)).latch = s.latch := rfl
@[simp] theorem applyWrite_seedWrite_resetAsserted (s : State) (k : Fin 4) (v : Word) : (applyWrite s (.seed k v)).resetAsserted = s.resetAsserted := rfl
@[simp] theorem applyWrite_seedWrite_requests (s : State) (k : Fin 4) (v : Word) : (applyWrite s (.seed k v)).requests = s.requests := rfl
@[simp] theorem applyWrite_seedWrite_replies (s : State) (k : Fin 4) (v : Word) : (applyWrite s (.seed k v)).replies = s.replies := rfl
@[simp] theorem applyWrite_seedWrite_freeReads (s : State) (k : Fin 4) (v : Word) : (applyWrite s (.seed k v)).freeReads = s.freeReads := rfl

@[simp] theorem applyWrite_codeWrite_seed (s : State) (n : Fin 15) (v : Word) : (applyWrite s (.code n v)).seed = s.seed := rfl
@[simp] theorem applyWrite_codeWrite_code (s : State) (n : Fin 15) (v : Word) : (applyWrite s (.code n v)).code = s.code.set n v := rfl
@[simp] theorem applyWrite_codeWrite_status (s : State) (n : Fin 15) (v : Word) : (applyWrite s (.code n v)).status = s.status := rfl
@[simp] theorem applyWrite_codeWrite_latch (s : State) (n : Fin 15) (v : Word) : (applyWrite s (.code n v)).latch = s.latch := rfl
@[simp] theorem applyWrite_codeWrite_resetAsserted (s : State) (n : Fin 15) (v : Word) : (applyWrite s (.code n v)).resetAsserted = s.resetAsserted := rfl
@[simp] theorem applyWrite_codeWrite_requests (s : State) (n : Fin 15) (v : Word) : (applyWrite s (.code n v)).requests = s.requests := rfl
@[simp] theorem applyWrite_codeWrite_replies (s : State) (n : Fin 15) (v : Word) : (applyWrite s (.code n v)).replies = s.replies := rfl
@[simp] theorem applyWrite_codeWrite_freeReads (s : State) (n : Fin 15) (v : Word) : (applyWrite s (.code n v)).freeReads = s.freeReads := rfl

@[simp] theorem acceptCommand_seed (s : State) (v : Word) : (acceptCommand s v).seed = s.seed := rfl
@[simp] theorem acceptCommand_code (s : State) (v : Word) : (acceptCommand s v).code = s.code := rfl
@[simp] theorem acceptCommand_status (s : State) (v : Word) : (acceptCommand s v).status = s.status.accepted v := rfl
@[simp] theorem acceptCommand_latch (s : State) (v : Word) : (acceptCommand s v).latch = v := rfl
@[simp] theorem acceptCommand_resetAsserted (s : State) (v : Word) : (acceptCommand s v).resetAsserted = s.resetAsserted := rfl
@[simp] theorem acceptCommand_requests (s : State) (v : Word) : (acceptCommand s v).requests = s.requests := rfl
@[simp] theorem acceptCommand_replies (s : State) (v : Word) : (acceptCommand s v).replies = s.replies := rfl
@[simp] theorem acceptCommand_freeReads (s : State) (v : Word) : (acceptCommand s v).freeReads = s.freeReads := rfl

@[simp] theorem dropWrite_seed (s : State) : (dropWrite s).seed = s.seed := rfl
@[simp] theorem dropWrite_code (s : State) : (dropWrite s).code = s.code := rfl
@[simp] theorem dropWrite_status (s : State) : (dropWrite s).status = s.status.overrun := rfl
@[simp] theorem dropWrite_latch (s : State) : (dropWrite s).latch = s.latch := rfl
@[simp] theorem dropWrite_resetAsserted (s : State) : (dropWrite s).resetAsserted = s.resetAsserted := rfl
@[simp] theorem dropWrite_requests (s : State) : (dropWrite s).requests = s.requests := rfl
@[simp] theorem dropWrite_replies (s : State) : (dropWrite s).replies = s.replies := rfl
@[simp] theorem dropWrite_freeReads (s : State) : (dropWrite s).freeReads = s.freeReads := rfl

@[simp] theorem resetBlock_seed (s : State) : (resetBlock s).seed = Vector.replicate 4 0#32 := rfl
@[simp] theorem resetBlock_code (s : State) : (resetBlock s).code = Vector.replicate 15 0#32 := rfl
@[simp] theorem resetBlock_status (s : State) : (resetBlock s).status = Status.reset := rfl
@[simp] theorem resetBlock_latch (s : State) : (resetBlock s).latch = 0#32 := rfl
@[simp] theorem resetBlock_resetAsserted (s : State) : (resetBlock s).resetAsserted = s.resetAsserted := rfl
@[simp] theorem resetBlock_requests (s : State) : (resetBlock s).requests = s.requests := rfl
@[simp] theorem resetBlock_replies (s : State) : (resetBlock s).replies = s.replies := rfl
@[simp] theorem resetBlock_freeReads (s : State) : (resetBlock s).freeReads = s.freeReads := rfl

@[simp] theorem answer_seed (s : State) (r : Reply) : (answer s r).seed = s.seed := rfl
@[simp] theorem answer_code (s : State) (r : Reply) : (answer s r).code = s.code := rfl
@[simp] theorem answer_status (s : State) (r : Reply) : (answer s r).status = s.status := rfl
@[simp] theorem answer_latch (s : State) (r : Reply) : (answer s r).latch = s.latch := rfl
@[simp] theorem answer_resetAsserted (s : State) (r : Reply) : (answer s r).resetAsserted = s.resetAsserted := rfl
@[simp] theorem answer_requests (s : State) (r : Reply) : (answer s r).requests = s.requests := rfl
@[simp] theorem answer_replies (s : State) (r : Reply) : (answer s r).replies = r :: s.replies := rfl
@[simp] theorem answer_freeReads (s : State) (r : Reply) : (answer s r).freeReads = s.freeReads := rfl

@[simp] theorem engineNext_seed (s : State) : (engineNext s).seed = s.seed := rfl
@[simp] theorem engineNext_code (s : State) : (engineNext s).code = s.code := rfl
@[simp] theorem engineNext_status (s : State) : (engineNext s).status = s.status := rfl
@[simp] theorem engineNext_latch (s : State) : (engineNext s).latch = s.latch := rfl
@[simp] theorem engineNext_resetAsserted (s : State) : (engineNext s).resetAsserted = false := rfl
@[simp] theorem engineNext_replies (s : State) : (engineNext s).replies = s.replies := rfl
@[simp] theorem engineNext_freeReads (s : State) : (engineNext s).freeReads = s.freeReads := rfl

@[simp] theorem engineNext_completionFirst (s : State) : completionFirst (engineNext s) = true := by
  cases h : s.requests <;> simp [engineNext, completionFirst, h]

end Sys2Proof.Machine
end

