-- ==== Sys2Proof/Laws/Ops.lean ====
section
/-! SUPPORT. What each shared operation does, said once: register writes and completion (R61), issue (R58), the
register map (R25), reads and writes of registers (R45, R46), and serving the port (R44, R141). -/

namespace Sys2Proof.Machine

/-! ### Write sets -/

@[simp] theorem applyWrites_nil (s : State) : applyWrites s [] = s := rfl

@[simp] theorem applyWrites_cons (s : State) (w : RegWrite) (W : List RegWrite) :
    applyWrites s (w :: W) = applyWrites (applyWrite s w) W := rfl

theorem applyWrites_append (s : State) (W W' : List RegWrite) :
    applyWrites s (W ++ W') = applyWrites (applyWrites s W) W' := by
  simp [applyWrites]

/-- Register writes touch nothing but SEED and CODE. -/
theorem applyWrites_frame (W : List RegWrite) (s : State) :
    applyWrites s W = { s with seed := (applyWrites s W).seed, code := (applyWrites s W).code } := by
  induction W generalizing s with
  | nil => rfl
  | cons w W ih => rw [applyWrites_cons, ih]; cases w <;> rfl

@[simp] theorem applyWrites_status (s : State) (W : List RegWrite) : (applyWrites s W).status = s.status := by
  rw [applyWrites_frame]
@[simp] theorem applyWrites_latch (s : State) (W : List RegWrite) : (applyWrites s W).latch = s.latch := by
  rw [applyWrites_frame]
@[simp] theorem applyWrites_resetAsserted (s : State) (W : List RegWrite) :
    (applyWrites s W).resetAsserted = s.resetAsserted := by rw [applyWrites_frame]
@[simp] theorem applyWrites_requests (s : State) (W : List RegWrite) : (applyWrites s W).requests = s.requests := by
  rw [applyWrites_frame]
@[simp] theorem applyWrites_replies (s : State) (W : List RegWrite) : (applyWrites s W).replies = s.replies := by
  rw [applyWrites_frame]
@[simp] theorem applyWrites_freeReads (s : State) (W : List RegWrite) :
    (applyWrites s W).freeReads = s.freeReads := by rw [applyWrites_frame]

/-- Writing all four SEED registers replaces the seed buffer. -/
@[simp] theorem applyWrites_seedWrites (s : State) (v : Vector Word 4) :
    applyWrites s (seedWrites v) = { s with seed := v } := by
  have hf : List.finRange 4 = [0, 1, 2, 3] := by decide
  simp only [seedWrites, hf, List.map_cons, List.map_nil, applyWrites_cons, applyWrites_nil, applyWrite]
  congr 1
  ext i hi
  obtain rfl | rfl | rfl | rfl : i = 0 ∨ i = 1 ∨ i = 2 ∨ i = 3 := by omega
  all_goals simp

/-- Folding single writes over distinct code positions: position `n` holds its write, or what it held. -/
theorem applyWrites_codes (L : List (Fin 13)) (hL : L.Nodup) (cs : DataCodes) (s : State) (n : Fin 15) :
    (applyWrites s (L.map fun m => .code (m.castLE (by omega)) (cs[m].setWidth 32))).code[n] =
      if h : ∃ m ∈ L, m.val = n.val then cs[n.val]'(by obtain ⟨m, _, hm⟩ := h; omega) |>.setWidth 32
      else s.code[n] := by
  induction L generalizing s with
  | nil => simp
  | cons m L ih =>
    rw [List.map_cons, applyWrites_cons, ih (List.nodup_cons.1 hL).2]
    have hm := (List.nodup_cons.1 hL).1
    by_cases h1 : ∃ k ∈ L, k.val = n.val
    · have h2 : ∃ k ∈ m :: L, k.val = n.val := by
        obtain ⟨k, hk, e⟩ := h1; exact ⟨k, List.mem_cons_of_mem _ hk, e⟩
      rw [dif_pos h1, dif_pos h2]
    · rw [dif_neg h1]
      by_cases h3 : m.val = n.val
      · have h2 : ∃ k ∈ m :: L, k.val = n.val := ⟨m, List.mem_cons_self, h3⟩
        rw [dif_pos h2]
        simp [h3]
      · have h2 : ¬ ∃ k ∈ m :: L, k.val = n.val := by
          rintro ⟨k, hk, e⟩
          rcases List.mem_cons.1 hk with rfl | hk
          · exact h3 e
          · exact h1 ⟨k, hk, e⟩
        rw [dif_neg h2]
        simp [h3]

/-- Writing the data positions: CODE0 to CODE12 hold the codes, CODE13 and CODE14 what they held. -/
theorem applyWrites_dataCodeWrites_code (s : State) (cs : DataCodes) (n : Fin 15) :
    (applyWrites s (dataCodeWrites cs)).code[n] =
      if h : n.val < 13 then (cs[n.val]).setWidth 32 else s.code[n] := by
  have key := applyWrites_codes (List.finRange 13) (List.nodup_finRange 13) cs s n
  have hiff : (∃ m ∈ List.finRange 13, m.val = n.val) ↔ n.val < 13 :=
    ⟨fun ⟨m, _, e⟩ => by omega, fun h => ⟨⟨n.val, h⟩, List.mem_finRange _, rfl⟩⟩
  by_cases h : n.val < 13
  · rw [dif_pos h]; rw [dif_pos (hiff.2 h)] at key; exact key
  · rw [dif_neg h]; rw [dif_neg (mt hiff.1 h)] at key; exact key

theorem applyWrites_codes_seed (L : List (Fin 13)) (cs : DataCodes) (s : State) :
    (applyWrites s (L.map fun m => .code (m.castLE (by omega)) (cs[m].setWidth 32))).seed = s.seed := by
  induction L generalizing s with
  | nil => rfl
  | cons m L ih => rw [List.map_cons, applyWrites_cons, ih]; rfl

@[simp] theorem applyWrites_dataCodeWrites_seed (s : State) (cs : DataCodes) :
    (applyWrites s (dataCodeWrites cs)).seed = s.seed := applyWrites_codes_seed _ _ _

/-- Writing the checksum positions: CODE13 and CODE14 hold the words. -/
@[simp] theorem applyWrites_checksumWrites (s : State) (w : WordCode × WordCode) :
    applyWrites s (checksumWrites w) =
      { s with code := (s.code.set 13 (w.1.setWidth 32)).set 14 (w.2.setWidth 32) } := rfl

/-! ### Completion -/

/-- A completion with any result: STATUS as R61 says; LATCH and the port as they were. -/
@[simp] theorem complete_status (s : State) (r : CommandResult) :
    (complete s r).status = s.status.completed r.err r.pos := by
  unfold complete; split <;> simp
@[simp] theorem complete_latch (s : State) (r : CommandResult) : (complete s r).latch = s.latch := by
  unfold complete; split <;> simp
@[simp] theorem complete_resetAsserted (s : State) (r : CommandResult) :
    (complete s r).resetAsserted = s.resetAsserted := by unfold complete; split <;> simp
@[simp] theorem complete_requests (s : State) (r : CommandResult) : (complete s r).requests = s.requests := by
  unfold complete; split <;> simp
@[simp] theorem complete_replies (s : State) (r : CommandResult) : (complete s r).replies = s.replies := by
  unfold complete; split <;> simp
@[simp] theorem complete_freeReads (s : State) (r : CommandResult) : (complete s r).freeReads = s.freeReads := by
  unfold complete; split <;> simp

/-- A failing completion changes STATUS alone. -/
theorem complete_failWith (s : State) (e : ResultCode) (p : BitVec 4) :
    complete s (failWith e p) = { s with status := s.status.completed e p } := by
  unfold complete failWith; split <;> rfl

/-- A successful completion applies its write set. -/
theorem complete_succeed (s : State) (W : List RegWrite) :
    complete s (succeed W) =
      { applyWrites s W with status := s.status.completed .none 0xF#4 } := by
  simp [complete, succeed, noPosition]

/-- A completion whose code is not NONE leaves the data registers. -/
theorem complete_data_of_err (s : State) (r : CommandResult) (h : r.err ≠ .none) :
    (complete s r).seed = s.seed ∧ (complete s r).code = s.code := by
  simp [complete, h]

/-- A successful completion holds in SEED and CODE what its write set leaves there. -/
theorem complete_data_of_none (s : State) (r : CommandResult) (h : r.err = .none) :
    (complete s r).seed = (applyWrites s r.writes).seed ∧ (complete s r).code = (applyWrites s r.writes).code := by
  simp [complete, h]

/-! ### Issue -/

theorem issue_of_busy (s : State) (v : Word) (h : s.status.busy = true) : issue s v = dropWrite s := by
  simp [issue, h]

theorem issue_of_idle (s : State) (v : Word) (h : s.status.busy = false) : issue s v = acceptCommand s v := by
  simp [issue, h]

/-! ### The register map -/

/-- Every register stands at its offset (R25). -/
@[simp] theorem regAt_offsetOf (r : Reg) : regAt (offsetOf r) = some r := by
  cases r with
  | seed k => fin_cases k <;> rfl
  | code n => fin_cases n <;> rfl
  | _ => rfl

/-- An offset names at most the register that stands there: no aliases (R27). -/
theorem offsetOf_of_regAt (o : Nat) (r : Reg) (h : regAt o = some r) : o = offsetOf r := by
  unfold regAt at h
  split at h
  · next e => cases h; exact e
  split at h
  · next e => cases h; exact e
  split at h
  · next e => cases h; exact e
  split at h
  · next e => cases h; exact e
  split at h
  · next e => cases h; simp only [offsetOf]; omega
  split at h
  · next e => cases h; simp only [offsetOf]; omega
  · cases h

theorem offsetOf_lt (r : Reg) : offsetOf r < 0x5C := by
  cases r <;> simp only [offsetOf] <;> omega

theorem offsetOf_aligned (r : Reg) : offsetOf r % 4 = 0 := by
  cases r <;> simp only [offsetOf] <;> omega

/-- An aligned offset below the reserved range names a register (R25). -/
theorem regAt_isSome (o : Nat) (h : o < 0x5C) (h4 : o % 4 = 0) : ∃ r, regAt o = some r := by
  unfold regAt
  repeat' split
  all_goals first
    | exact ⟨_, rfl⟩
    | omega

/-- `legalTarget` names a register exactly for a 4-byte access at that register's offset (R43, R44). -/
theorem legalTarget_eq_some (o w : Nat) (r : Reg) : legalTarget o w = some r ↔ w = 4 ∧ o = offsetOf r := by
  unfold legalTarget
  constructor
  · intro h
    split at h
    · next hw => exact ⟨hw.1, offsetOf_of_regAt o r h⟩
    · cases h
  · rintro ⟨rfl, rfl⟩
    simp [offsetOf_aligned]

/-- An access of the window is a bus error exactly for a wrong width, a misaligned offset or a reserved offset (R44). -/
theorem legalTarget_eq_none (o w : Nat) : legalTarget o w = none ↔ w ≠ 4 ∨ o % 4 ≠ 0 ∨ 0x5C ≤ o := by
  constructor
  · intro h
    by_contra hc
    simp only [not_or, not_not, Nat.not_le] at hc
    obtain ⟨r, hr⟩ := regAt_isSome o hc.2.2 hc.2.1
    simp [legalTarget, hc.1, hc.2.1, hr] at h
  · intro h
    cases hr : legalTarget o w with
    | none => rfl
    | some r =>
      obtain ⟨h1, h2⟩ := (legalTarget_eq_some o w r).1 hr
      have := offsetOf_lt r
      have := offsetOf_aligned r
      omega

/-! ### Addresses -/

/-- An address of the window is BASE plus its offset (R40). -/
theorem windowOffset_eq_some (a o : Nat) : windowOffset a = some o ↔ o < 256 ∧ a = Config.base + o := by
  unfold windowOffset
  split
  · next h => simp only [Option.some.injEq]; omega
  · next h => simp only [reduceCtorEq, false_iff]; omega

/-- No other address is (R40). -/
theorem windowOffset_eq_none (a : Nat) : windowOffset a = none ↔ a < Config.base ∨ Config.base + 256 ≤ a := by
  unfold windowOffset
  split
  · next h => simp only [reduceCtorEq, false_iff]; omega
  · next h => simp only [true_iff]; omega

@[simp] theorem windowOffset_base_add (r : Reg) : windowOffset (Config.base + offsetOf r) = some (offsetOf r) :=
  (windowOffset_eq_some _ _).2 ⟨by have := offsetOf_lt r; omega, rfl⟩

/-- An offset is aligned when its address is: BASE is a multiple of 256 (R49). -/
theorem base_add_mod_four (o : Nat) : (Config.base + o) % 4 = o % 4 := by
  unfold Config.base; omega

/-! ### Serving the port -/

/-- A read changes no register of the block: it answers, and may use up a free value (R48). -/
theorem readReg_frame (s : State) (r : Reg) :
    ∃ v k, readReg s r = { s with replies := .readData v :: s.replies, freeReads := k } := by
  unfold readReg
  split
  · exact ⟨_, _, rfl⟩
  · exact ⟨_, s.freeReads, rfl⟩

/-- A read of a register that no command in flight will write answers its value (R45). -/
theorem readReg_of_not_target (s : State) (r : Reg) (h : inFlightTarget s r = false) :
    readReg s r = answer s (.readData (regValue s r)) := by
  simp [readReg, h]

/-- An idle block has no register in flight. -/
theorem inFlightTarget_of_idle (s : State) (r : Reg) (h : s.status.busy = false) : inFlightTarget s r = false := by
  simp [inFlightTarget, h]

/-- A 4-byte access at a register's address reaches that register, when the reset input is released. -/
theorem serveAccess_read (s : State) (r : Reg) (h : s.resetAsserted = false) :
    serveAccess s (.read (Config.base + offsetOf r) 4) = .next (readReg s r) := by
  have ht : legalTarget (offsetOf r) 4 = some r := (legalTarget_eq_some _ _ _).2 ⟨rfl, rfl⟩
  simp [serveAccess, serveAtOffset, accessAddr, accessWidth, serveRegister, ht, h]

theorem serveAccess_write (s : State) (r : Reg) (v : Word) (h : s.resetAsserted = false) :
    serveAccess s (.write (Config.base + offsetOf r) 4 v) = .next (answer (writeReg s r v) .writeDone) := by
  have ht : legalTarget (offsetOf r) 4 = some r := (legalTarget_eq_some _ _ _).2 ⟨rfl, rfl⟩
  simp [serveAccess, serveAtOffset, accessAddr, accessWidth, serveRegister, ht, h]

/-- What serving an access can do, when it answers a next state. -/
theorem serveAccess_cases (s t : State) (a : Access) (h : serveAccess s a = .next t) :
    s.resetAsserted = false ∧ ∃ o, windowOffset (accessAddr a) = some o ∧
      ((legalTarget o (accessWidth a) = none ∧ t = answer s (.busError (accessAddr a) (accessDirection a))) ∨
       (∃ r ad w, a = .read ad w ∧ legalTarget o w = some r ∧ t = readReg s r) ∨
       (∃ r ad w v, a = .write ad w v ∧ legalTarget o w = some r ∧ t = answer (writeReg s r v) .writeDone)) := by
  unfold serveAccess at h
  split at h
  · cases h
  · next o ho =>
    split at h
    · cases h
    · next hr =>
      refine ⟨by simpa using hr, o, ho, ?_⟩
      cases h
      unfold serveAtOffset
      split
      · next r hl =>
        right
        cases a with
        | read ad w => exact .inl ⟨r, ad, w, rfl, hl, rfl⟩
        | write ad w v => exact .inr ⟨r, ad, w, v, rfl, hl, rfl⟩
      · next hl => exact .inl ⟨hl, rfl⟩

/-- What the port's turn can do, when it answers a next state: nothing, an access, or a change of the reset input. -/
theorem servePort_cases (s t : State) (h : servePort s = .next t) :
    (s.requests = [] ∧ t = s) ∨
    (∃ q rest a, s.requests = q :: rest ∧ q.event = .access a ∧ serveAccess { s with requests := rest } a = .next t) ∨
    (∃ q rest, s.requests = q :: rest ∧ q.event = .assertReset ∧
      t = resetBlock { s with requests := rest, resetAsserted := true }) ∨
    (∃ q rest, s.requests = q :: rest ∧ q.event = .releaseReset ∧
      t = resetBlock { s with requests := rest, resetAsserted := false }) := by
  unfold servePort at h
  split at h
  · next hq => cases h; exact .inl ⟨hq, rfl⟩
  · next q rest hq =>
    right
    unfold serveEvent at h
    split at h
    · next a he => exact .inl ⟨q, rest, a, hq, he, h⟩
    · next he => cases h; exact .inr (.inl ⟨q, rest, hq, he, rfl⟩)
    · next he => cases h; exact .inr (.inr ⟨q, rest, hq, he, rfl⟩)

/-- What a register write can do: nothing, a soft reset, an issue, a W1C write, a dropped write, or a data write. -/
theorem writeReg_cases (s : State) (r : Reg) (v : Word) :
    (writeReg s r v = s ∧ (r = .id ∨ (r = .ctrl ∧ v[0] = false))) ∨
    (r = .ctrl ∧ v[0] = true ∧ writeReg s r v = resetBlock s) ∨
    (r = .cmd ∧ s.status.busy = false ∧ writeReg s r v = acceptCommand s v) ∨
    (r = .status ∧ writeReg s r v = { s with status := s.status.writeOneToClear v }) ∨
    (s.status.busy = true ∧ (r = .cmd ∨ (∃ k, r = .seed k) ∨ ∃ n, r = .code n) ∧ writeReg s r v = dropWrite s) ∨
    (∃ k, r = .seed k ∧ s.status.busy = false ∧ writeReg s r v = { s with seed := s.seed.set k v }) ∨
    (∃ n, r = .code n ∧ s.status.busy = false ∧ writeReg s r v = { s with code := s.code.set n v }) := by
  cases r <;> cases hb : s.status.busy <;> cases hv : v[0] <;>
    simp_all [writeReg, issue]

end Sys2Proof.Machine
end

