-- ==== Sys2Proof/Laws/Codec.lean ====
section
/-! SUPPORT. The bits of the Codec's functions: each is a rearrangement of bits, so each has one lemma that says which
bit goes where. Bit numbers count from the least significant bit. -/

namespace Sys2Proof.Machine

/-- Bit `j` of seed byte `i` is bit `8*(i mod 4) + j` of SEED(i div 4) (R34). -/
theorem seedByte_bit (s : State) (i : Fin 16) (j : Nat) (hj : j < 8) :
    (seedByte s i).getLsbD j = (s.seed[i.val / 4]).getLsbD (8 * (i.val % 4) + j) := by
  simp [seedByte, seedReg, hj]

@[simp] theorem seedBytes_getElem (s : State) (i : Nat) (hi : i < 16) :
    (seedBytes s)[i] = seedByte s ⟨i, hi⟩ := by
  simp [seedBytes]

/-- Seed bytes are those of the SEED registers alone. -/
theorem seedBytes_congr (s t : State) (h : s.seed = t.seed) : seedBytes s = seedBytes t := by
  have hf : seedByte s = seedByte t := by funext i; simp [seedByte, seedReg, h]
  simp [seedBytes, hf]

/-- Bit `m` of SEEDk is bit `m mod 8` of seed byte `4k + m div 8` (R34, R74). -/
theorem packSeed_bit (b : SeedBytes) (k : Nat) (hk : k < 4) (m : Nat) (hm : m < 32) :
    ((packSeed b)[k]).getLsbD m = (b[4 * k + m / 8]).getLsbD (m % 8) := by
  simp only [packSeed, Vector.getElem_ofFn, BitVec.getLsbD_or, BitVec.getLsbD_shiftLeft, BitVec.getLsbD_setWidth]
  obtain h | h | h | h : m / 8 = 0 ∨ m / 8 = 1 ∨ m / 8 = 2 ∨ m / 8 = 3 := by omega
  all_goals
    simp only [h, Nat.add_zero]
  · have h1 : m < 8 := by omega
    have h2 : m < 16 := by omega
    have h3 : m < 24 := by omega
    simp [hm, h1, h2, h3, Nat.mod_eq_of_lt h1]
  · have h1 : ¬ m < 8 := by omega
    have h2 : m < 16 := by omega
    have h3 : m < 24 := by omega
    have h4 : m % 8 = m - 8 := by omega
    rw [BitVec.getLsbD_of_ge (b[4 * k]) m (by omega)]
    simp [hm, h1, h2, h3, h4]
    exact fun _ => by omega
  · have h1 : ¬ m < 8 := by omega
    have h2 : ¬ m < 16 := by omega
    have h3 : m < 24 := by omega
    have h4 : m % 8 = m - 16 := by omega
    rw [BitVec.getLsbD_of_ge (b[4 * k]) m (by omega), BitVec.getLsbD_of_ge (b[4 * k + 1]) (m - 8) (by omega)]
    simp [hm, h2, h3, h4]
    exact fun _ => by omega
  · have h1 : ¬ m < 8 := by omega
    have h2 : ¬ m < 16 := by omega
    have h3 : ¬ m < 24 := by omega
    have h4 : m % 8 = m - 24 := by omega
    rw [BitVec.getLsbD_of_ge (b[4 * k]) m (by omega), BitVec.getLsbD_of_ge (b[4 * k + 1]) (m - 8) (by omega),
      BitVec.getLsbD_of_ge (b[4 * k + 2]) (m - 16) (by omega)]
    simp [hm, h3, h4]
    exact fun _ => by omega

/-- The SEED registers that hold `b` have the seed bytes `b` (R34, R74). -/
theorem seedBytes_of_packSeed (s : State) (b : SeedBytes) (h : s.seed = packSeed b) : seedBytes s = b := by
  ext i hi j hj
  rw [seedBytes_getElem, ← BitVec.getLsbD_eq_getElem, ← BitVec.getLsbD_eq_getElem, seedByte_bit _ _ _ hj]
  have e1 : 4 * (i / 4) + (8 * (i % 4) + j) / 8 = i := by omega
  have e2 : (8 * (i % 4) + j) % 8 = j := by omega
  simp only [h]
  rw [packSeed_bit b _ (by omega) _ (by omega)]
  simp only [e1, e2]

/-- Packing the seed bytes gives the SEED registers back (R34, R74). -/
theorem packSeed_seedBytes (s : State) : packSeed (seedBytes s) = s.seed := by
  ext k hk m hm
  rw [← BitVec.getLsbD_eq_getElem, ← BitVec.getLsbD_eq_getElem, packSeed_bit _ _ hk _ hm, seedBytes_getElem,
    seedByte_bit _ _ _ (by omega)]
  have e1 : (4 * k + m / 8) / 4 = k := by omega
  have e2 : 8 * ((4 * k + m / 8) % 4) + m % 8 = m := by omega
  simp only [e1, e2]

/-- Bit `t` of the big-endian number is bit `t mod 8` of byte `15 - t div 8` (R11, R70). -/
theorem bigEndian_bit (b : SeedBytes) (t : Nat) (ht : t < 128) :
    (bigEndian b).getLsbD t = (b[15 - t / 8]).getLsbD (t % 8) := by
  obtain ⟨q, r, hr, rfl⟩ : ∃ q r, r < 8 ∧ t = 8 * q + r := ⟨t / 8, t % 8, by omega, by omega⟩
  have hq : q < 16 := by omega
  have hd : (8 * q + r) / 8 = q := by omega
  have hm : (8 * q + r) % 8 = r := by omega
  simp only [hd, hm, bigEndian, BitVec.getLsbD_append]
  interval_cases q <;> simp (disch := omega) only [if_pos, if_neg] <;>
    refine congrArg _ ?_ <;> omega

/-- Bit `j` of byte `i` of `toBytesBE S` is bit `8*(15-i) + j` of S (R11, R74). -/
theorem toBytesBE_bit (S : BitVec 128) (i : Nat) (hi : i < 16) (j : Nat) (hj : j < 8) :
    ((toBytesBE S)[i]).getLsbD j = S.getLsbD (8 * (15 - i) + j) := by
  simp [toBytesBE, hj]

/-- The padded stream: two zero bits below the 128 seed bits (R71). -/
theorem paddedStream_bit (b : SeedBytes) (t : Nat) :
    (paddedStream b).getLsbD t = (decide (2 ≤ t) && (bigEndian b).getLsbD (t - 2)) := by
  simp only [paddedStream, BitVec.getLsbD_append]
  by_cases h : t < 2
  · simp [h]
  · simp [h, Nat.not_lt.1 h]

/-- Bit `m` of code `n` is bit `10*(12-n) + m` of the padded stream (R71). -/
theorem encodeSeed_bit (b : SeedBytes) (n : Nat) (hn : n < 13) (m : Nat) (hm : m < 10) :
    ((encodeSeed b)[n]).getLsbD m = (paddedStream b).getLsbD (10 * (12 - n) + m) := by
  simp [encodeSeed, hm]

/-- Bit `t` of the joined codes is bit `t mod 10` of code `12 - t div 10` (R74, R79). -/
theorem joinCodes_bit (cs : DataCodes) (t : Nat) (ht : t < 130) :
    (joinCodes cs).getLsbD t = (cs[12 - t / 10]).getLsbD (t % 10) := by
  obtain ⟨q, r, hr, rfl⟩ : ∃ q r, r < 10 ∧ t = 10 * q + r := ⟨t / 10, t % 10, by omega, by omega⟩
  have hq : q < 13 := by omega
  have hd : (10 * q + r) / 10 = q := by omega
  have hm : (10 * q + r) % 10 = r := by omega
  simp only [hd, hm, joinCodes, BitVec.getLsbD_append]
  interval_cases q <;> simp (disch := omega) only [if_pos, if_neg] <;>
    refine congrArg _ ?_ <;> omega

/-- Bit `j` of byte `i` of the decoded seed is bit `8*(15-i) + j + 2` of the joined codes (R74). -/
theorem decodeCodes_bit (cs : DataCodes) (i : Nat) (hi : i < 16) (j : Nat) (hj : j < 8) :
    ((decodeCodes cs)[i]).getLsbD j = (joinCodes cs).getLsbD (2 + (8 * (15 - i) + j)) := by
  have h : 8 * (15 - i) + j < 128 := by omega
  simp [decodeCodes, toBytesBE_bit _ i hi j hj, h]

@[simp] theorem dataCodes_getElem (s : State) (n : Nat) (hn : n < 13) :
    (dataCodes s)[n] = (s.code[n]).setWidth 10 := by
  simp [dataCodes, codeReg]

/-- The data codes are those of CODE0 to CODE12 alone. -/
theorem dataCodes_congr (s t : State) (h : ∀ n : Fin 13, s.code[n] = t.code[n]) : dataCodes s = dataCodes t := by
  ext n hn
  have := h ⟨n, hn⟩
  simp only [Fin.getElem_fin] at this
  simp [this]

end Sys2Proof.Machine
end

