-- ==== Sys2Proof/Laws/Decode.lean ====
section
/-! SUPPORT. What the decoder answers, said once (R56, R57, R60). -/

namespace Sys2Proof

/-- A word decodes to a command exactly when RSV is zero and OP is that command's opcode. -/
theorem decodeCommand_eq_ok (v : Word) (i : Instr) :
    decodeCommand v = .ok i ↔ rsvField v = 0#28 ∧ opField v = opOfCommand i := by
  unfold decodeCommand
  by_cases h : rsvField v = 0#28
  · simp only [h, ne_eq, not_true, if_false, true_and]
    generalize opField v = op
    obtain ⟨⟨n, hn⟩⟩ := op
    have hn : n < 16 := hn
    interval_cases n <;> cases i <;> simp [commandOfOp, opOfCommand]
  · simp [h]

/-- A word is rejected exactly when RSV is not zero or OP is 6 or more. -/
theorem decodeCommand_eq_error (v : Word) :
    (∃ e, decodeCommand v = .error e) ↔ rsvField v ≠ 0#28 ∨ 6 ≤ (opField v).toNat := by
  unfold decodeCommand
  by_cases h : rsvField v = 0#28
  · simp only [h, ne_eq, not_true, if_false, false_or]
    generalize opField v = op
    obtain ⟨⟨n, hn⟩⟩ := op
    have hn : n < 16 := hn
    interval_cases n <;> simp [commandOfOp]
  · simp [h]

/-- The decoder reads back each command's own word. -/
@[simp] theorem decodeCommand_encodeCommand (i : Instr) : decodeCommand (encodeCommand i) = .ok i := by
  cases i <;> rfl

end Sys2Proof
end

