-- ==== Sys2Proof/Laws/Exec.lean ====
section
/-! SUPPORT. What a command's meaning and one step can do, said once. -/

namespace Sys2Proof.Machine

/-! ### The meanings -/

/-- The result that each command's rule yields (R60). -/
def commandResult (i : Instr) (s : State) : CommandResult :=
  match i with
  | .nop => succeed []
  | .encode => encodeResult s
  | .decode => decodeResult s
  | .checksum => checksumResult s
  | .phrase => phraseResult s
  | .validate => validateResult s

/-- Every command completes: its meaning is the completion with its result (R60, R61). -/
theorem exec_eq_complete (i : Instr) (s : State) : exec i s = .next (complete s (commandResult i s)) := by
  cases i <;> rfl

/-- What it answers is that completion and nothing else; proofs cite this instead of matching on the outcome. -/
theorem exec_eq_next (i : Instr) (s t : State) : exec i s = .next t ↔ t = complete s (commandResult i s) := by
  rw [exec_eq_complete, Host.Outcome.next.injEq]
  exact eq_comm

/-- The completion of an illegal word changes STATUS alone (R97). -/
theorem execIllegal_eq (s : State) :
    execIllegal s = .next { s with status := s.status.completed .illegalCmd 0xF#4 } := by
  simp [execIllegal, complete_failWith, noPosition]

/-- ENCODE's next state (R72). -/
theorem execEncode_eq (s : State) :
    execEncode s = .next { applyWrites s (dataCodeWrites (encodeSeed (seedBytes s))) with
      status := s.status.completed .none 0xF#4 } := by
  simp [execEncode, encodeResult, complete_succeed]

/-- CHECKSUM's next state (R82). -/
theorem execChecksum_eq (s : State) :
    execChecksum s = .next { applyWrites s (checksumWrites (checksumWords (seedBytes s))) with
      status := s.status.completed .none 0xF#4 } := by
  simp [execChecksum, checksumResult, complete_succeed]

/-- PHRASE's next state: ENCODE's writes, then CHECKSUM's (R86). -/
theorem execPhrase_eq (s : State) :
    execPhrase s = .next { applyWrites (applyWrites s (dataCodeWrites (encodeSeed (seedBytes s))))
        (checksumWrites (checksumWords (seedBytes s))) with
      status := s.status.completed .none 0xF#4 } := by
  simp [execPhrase, phraseResult, complete_succeed, applyWrites_append]

/-- The three results of DECODE (R74). -/
theorem decodeResult_cases (s : State) :
    (∃ n, firstOutOfRange 13 s = some n ∧ decodeResult s = failWith .range (BitVec.ofNat 4 n.val)) ∨
    (firstOutOfRange 13 s = none ∧ padBitsSet s = true ∧ decodeResult s = failWith .invalidEncoding 12#4) ∨
    (firstOutOfRange 13 s = none ∧ padBitsSet s = false ∧
      decodeResult s = succeed (seedWrites (packSeed (decodeCodes (dataCodes s))))) := by
  unfold decodeResult
  cases h : firstOutOfRange 13 s with
  | some n => exact .inl ⟨n, rfl, rfl⟩
  | none => cases hp : padBitsSet s <;> simp

/-- The four results of VALIDATE (R88). -/
theorem validateResult_cases (s : State) :
    (∃ n, firstOutOfRange 15 s = some n ∧ validateResult s = failWith .range (BitVec.ofNat 4 n.val)) ∨
    (firstOutOfRange 15 s = none ∧ padBitsSet s = true ∧ validateResult s = failWith .invalidEncoding 12#4) ∨
    (firstOutOfRange 15 s = none ∧ padBitsSet s = false ∧
      checksumMatches s (checksumWords (decodeCodes (dataCodes s))) = false ∧
      validateResult s = failWith .checksumMismatch 0xF#4) ∨
    (firstOutOfRange 15 s = none ∧ padBitsSet s = false ∧
      checksumMatches s (checksumWords (decodeCodes (dataCodes s))) = true ∧
      validateResult s = succeed (seedWrites (packSeed (decodeCodes (dataCodes s))))) := by
  unfold validateResult
  cases h : firstOutOfRange 15 s with
  | some n => exact .inl ⟨n, rfl, rfl⟩
  | none =>
    cases hp : padBitsSet s <;>
      cases hc : checksumMatches s (checksumWords (decodeCodes (dataCodes s))) <;> simp [noPosition]

/-! ### The checks -/

/-- The RANGE check passes exactly when every position below the limit holds less than 1024 (R104). -/
theorem firstOutOfRange_eq_none (limit : Nat) (s : State) :
    firstOutOfRange limit s = none ↔ ∀ n : Fin 15, n.val < limit → (codeReg s n).toNat < 1024 := by
  simp [firstOutOfRange, List.find?_eq_none]

/-- It reports the lowest position that holds 1024 or more (R104). -/
theorem firstOutOfRange_eq_some (limit : Nat) (s : State) (n : Fin 15) :
    firstOutOfRange limit s = some n ↔
      n.val < limit ∧ 1024 ≤ (codeReg s n).toNat ∧ ∀ m : Fin 15, m < n → (codeReg s m).toNat < 1024 := by
  unfold firstOutOfRange
  rw [List.find?_eq_some_iff_getElem]
  constructor
  · rintro ⟨hp, i, hi, he, hlt⟩
    simp only [List.length_finRange] at hi
    simp only [List.getElem_finRange, Fin.cast_mk] at he
    simp only [Bool.and_eq_true, decide_eq_true_eq] at hp
    refine ⟨hp.1, hp.2, fun m hm => ?_⟩
    have hmi : m.val < i := by rw [← he] at hm; exact hm
    have := hlt m.val hmi
    simp at this
    exact this.resolve_left (by have := hp.1; have : m.val < n.val := hm; omega)
  · rintro ⟨h1, h2, h3⟩
    refine ⟨by simp [h1, h2], n.val, by simp, by simp, fun j hj => ?_⟩
    have := h3 ⟨j, by omega⟩ hj
    simp [this]

/-! ### One step -/

/-- One step is the engine's completion or the port's turn (R20, R59). -/
theorem step_cases (s : State) :
    (engineTurn s = true ∧ step s = engineStep s) ∨ (engineTurn s = false ∧ step s = servePort s) := by
  unfold step
  cases h : engineTurn s <;> simp

/-- It is the engine's turn exactly when a command is in flight, the reset input is released, and its completion stands
before every pending input. -/
theorem engineTurn_eq_true (s : State) :
    engineTurn s = true ↔
      s.status.busy = true ∧ s.resetAsserted = false ∧
        (s.requests = [] ∨ ∃ q rest, s.requests = q :: rest ∧ q.afterCompletion = true) := by
  unfold engineTurn completionFirst
  cases h : s.requests <;> simp [and_assoc]

/-- The engine's step is a completion: of the decoded command's result, or of an illegal word (R60). -/
theorem engineStep_cases (s : State) :
    (∃ i, decodeCommand s.latch = .ok i ∧ engineStep s = .next (complete s (commandResult i s))) ∨
    (∃ e, decodeCommand s.latch = .error e ∧ engineStep s = .next (complete s (failWith .illegalCmd 0xF#4))) := by
  unfold engineStep
  cases h : decodeCommand s.latch with
  | ok i => exact .inl ⟨i, rfl, exec_eq_complete i s⟩
  | error e => exact .inr ⟨e, rfl, rfl⟩

/-- The port's turn serves the input it takes. -/
theorem step_of_portTakes (s : State) (q : Request) (rest : List Request) (h : portTakes s q rest) :
    step s = serveEvent { s with requests := rest } q.event := by
  simp [step, h.1, servePort, h.2]

/-- The step that serves a host write of a register. -/
theorem step_hostWr (s : State) (r : Reg) (v : Word) (after : Bool) (rest : List Request)
    (h : portTakes s (hostWr r v after) rest) (hr : s.resetAsserted = false) :
    step s = .next (answer (writeReg { s with requests := rest } r v) .writeDone) := by
  rw [step_of_portTakes s _ _ h]
  exact serveAccess_write _ r v hr

/-- The step that serves a host read of a register. -/
theorem step_hostRd (s : State) (r : Reg) (after : Bool) (rest : List Request)
    (h : portTakes s (hostRd r after) rest) (hr : s.resetAsserted = false) :
    step s = .next (readReg { s with requests := rest } r) := by
  rw [step_of_portTakes s _ _ h]
  exact serveAccess_read _ r hr

/-- A completion with any result is `completedAs` that result, SEED and CODE apart. -/
theorem completedAs_complete (s : State) (r : CommandResult) : completedAs s (complete s r) r.err r.pos :=
  ⟨complete_status s r, complete_latch s r, complete_resetAsserted s r, complete_requests s r, complete_replies s r,
    complete_freeReads s r⟩

/-! ### Runs -/

@[simp] theorem runSteps_zero (s : State) : runSteps 0 s = .next s := rfl

/-- A run whose first step answers a next state goes on from there. -/
theorem runSteps_succ (k : Nat) (s t : State) (h : step s = .next t) : runSteps (k + 1) s = runSteps k t := by
  have hc : Sys2Proof.core.step s = .next t := h
  simp only [runSteps, Host.Core.run, hc]
  rfl

end Sys2Proof.Machine
end

