-- ==== Sys2Proof/Laws/PerInstr.lean ====
section
/-! SUPPORT. Statements about every instruction as syntax, one lemma per constructor. -/

namespace Sys2Proof.Laws.WordRoundTrip

/-- The command word of `i`, as the opcode table numbers its bits, decodes to `i`, and it is a legal word (R56, R66). -/
def Statement (i : Instr) : Prop :=
  i.wellFormed = true ∧ decodeTableWord 32 (encodeCommand i).toNat = some i ∧ legalWord (encodeCommand i) = true

theorem nop : Statement .nop := by unfold Statement; decide
theorem encode : Statement .encode := by unfold Statement; decide
theorem decode : Statement .decode := by unfold Statement; decide
theorem checksum : Statement .checksum := by unfold Statement; decide
theorem phrase : Statement .phrase := by unfold Statement; decide
theorem validate : Statement .validate := by unfold Statement; decide

end Sys2Proof.Laws.WordRoundTrip
end

