-- ==== Sys2Proof/Tests/Slice0.lean ====
section
/-! SUPPORT. The model's own tests: the well-formedness checks refuse ill-formed terms, words written out from the spec's
encoding decode to their commands, single steps agree with the vectors of spec/95_test_vectors.md, and the hypotheses
of every statement are met by concrete states. -/

namespace Sys2Proof.Tests

open Sys2Proof.Machine

/-! ### Well-formedness: an ill-formed term for each check -/

theorem test_commands_wellFormed : ∀ i : Instr, i.wellFormed = true := by intro i; cases i <;> rfl
theorem test_rsvZero_refuses : rsvZero 0x00000011#32 = false := by decide
theorem test_opAssigned_refuses : opAssigned 0x00000006#32 = false := by decide
theorem test_legalWord_refuses : legalWord 0x80000001#32 = false ∧ legalWord 0x0000000F#32 = false := by decide
theorem test_isCode_refuses : isCode 1024#32 = false := by decide
theorem test_padZero_refuses : padZero 1021#32 = false := by decide

/-- A 13-tuple of register values by its first, its last and the value between. -/
def tuple (first mid last : Nat) : Vector Word 13 :=
  Vector.ofFn fun n => if n.val = 0 then BitVec.ofNat 32 first else if n.val = 12 then BitVec.ofNat 32 last
    else BitVec.ofNat 32 mid

theorem test_wellFormedTuple_accepts : wellFormedTuple (tuple 1023 1023 1020) = true := by decide
theorem test_wellFormedTuple_refuses_range : wellFormedTuple (tuple 1024 0 0) = false := by decide
theorem test_wellFormedTuple_refuses_pad : wellFormedTuple (tuple 0 0 1022) = false := by decide

/-! ### Decoding: words written out bit by bit from R55 and R56 (bits 31 to 4 RSV, bits 3 to 0 OP) -/

theorem test_decode_nop : decodeCommand 0b0000000000000000000000000000_0000#32 = .ok .nop := by rfl
theorem test_decode_encode : decodeCommand 0b0000000000000000000000000000_0001#32 = .ok .encode := by rfl
theorem test_decode_decode : decodeCommand 0b0000000000000000000000000000_0010#32 = .ok .decode := by rfl
theorem test_decode_checksum : decodeCommand 0b0000000000000000000000000000_0011#32 = .ok .checksum := by rfl
theorem test_decode_phrase : decodeCommand 0b0000000000000000000000000000_0100#32 = .ok .phrase := by rfl
theorem test_decode_validate : decodeCommand 0b0000000000000000000000000000_0101#32 = .ok .validate := by rfl
theorem test_decode_reserved_op : decodeCommand 0x00000006#32 = .error (.reservedOpcode 6#4) := by rfl
theorem test_decode_reserved_bits : decodeCommand 0x00000011#32 = .error .reservedBitsSet := by rfl
theorem test_table_word : decodeTableWord 32 5 = some .validate ∧ decodeTableWord 32 0x80000001 = none := by decide

/-! ### Single steps, against spec/95_test_vectors.md section 2 -/

/-- A seed buffer, a code buffer of equal values but position 12, and everything else at reset. -/
def start (seed : List Nat) (code : Nat) (code12 : Nat) : State :=
  { State.reset with
    seed := Vector.ofFn fun k : Fin 4 => BitVec.ofNat 32 (seed.getD k.val 0)
    code := Vector.ofFn fun n : Fin 15 => if n.val = 12 then BitVec.ofNat 32 code12 else BitVec.ofNat 32 code }

/-- What `f` finds in the state that a placed command word leaves; `none` when the step stops. -/
def after {α : Type} (s : State) (w : Nat) (f : State → α) : Option α :=
  match step (s.withFetchWord 32 w) with
  | .next t => some (f t)
  | .fault _ => none
  | .refused _ => none

/-- V-EN8: little-endian lanes. -/
theorem test_encode_counting_seed :
    after (start [0x03020100, 0x07060504, 0x0B0A0908, 0x0F0E0D0C] 0 0) 1
      (fun t => (t.code.toList.map (·.toNat), t.status.toWord)) =
    some ([0, 16, 128, 772, 20, 96, 450, 9, 40, 176, 771, 270, 60, 0, 0], 0x00001F02#32) := by decide

/-- V-EN9. -/
theorem test_encode_mixed_seed :
    after (start [0x67452301, 0xEFCDAB89, 0x98BADCFE, 0x10325476] 0 0) 1
      (fun t => (t.code.toList.map (·.toNat)).take 13) =
    some [4, 564, 345, 905, 687, 222, 1023, 732, 746, 391, 405, 50, 64] := by decide

/-- V-DE16: bits 110 to 127 of the seed. -/
theorem test_decode_last_codes :
    after { start [] 0 1020 with code := (start [] 0 1020).code.set 11 1023#32 } 2
      (fun t => (t.seed.toList, t.status.toWord)) =
    some ([0#32, 0#32, 0#32, 0xFFFF0300#32], 0x00002F02#32) := by decide

/-- V-DE12: RANGE at position 3 comes before INVALID_ENCODING. -/
theorem test_decode_range_first :
    after { start [] 0 1 with code := (start [] 0 1).code.set 3 2000#32 } 2 (fun t => t.status.toWord) =
    some 0x00002332#32 := by decide

/-- A digest of any length that begins with the bytes `a b c`. -/
def digestOf (a b c : Byte) : Vector Byte Config.digestLen :=
  Vector.ofFn fun k => if k.val = 0 then a else if k.val = 1 then b else c

/-- V-CK1 and V-CK7: digests that begin AB CD EF and 12 34 56. -/
theorem test_checksum_words :
    checksumWord13 (digestOf 0xAB 0xCD 0xEF) = 687#10 ∧ checksumWord14 (digestOf 0xAB 0xCD 0xEF) = 222#10 ∧
    checksumWord13 (digestOf 0x12 0x34 0x56) = 72#10 ∧ checksumWord14 (digestOf 0x12 0x34 0x56) = 837#10 := by
  simp [checksumWord13, checksumWord14, digestByte, digestOf]

/-- 41_checksum.md, STATUS after every CHECKSUM. -/
theorem test_checksum_status : after (start [1] 7 8) 3 (fun t => (t.status.toWord, t.seed[0], t.code[12])) =
    some (0x00003F02#32, 1#32, 8#32) := by decide

/-- V-PH2: the data codes of the all-ones seed. -/
theorem test_phrase_all_ones :
    after (start [0xFFFFFFFF, 0xFFFFFFFF, 0xFFFFFFFF, 0xFFFFFFFF] 0 0) 4
      (fun t => ((t.code.toList.map (·.toNat)).take 13, t.status.toWord)) =
    some ([1023, 1023, 1023, 1023, 1023, 1023, 1023, 1023, 1023, 1023, 1023, 1023, 1020], 0x00004F02#32) := by decide

/-- V-VA5: every position is range-checked first. -/
theorem test_validate_range_first :
    after { start [] 0 1 with code := (start [] 0 1).code.set 13 1024#32 } 5 (fun t => t.status.toWord) =
    some 0x00005D32#32 := by decide

/-- V-VA4. -/
theorem test_validate_invalid_encoding : after (start [5] 0 1) 5 (fun t => (t.status.toWord, t.seed[0])) =
    some (0x00005C12#32, 5#32) := by decide

/-- V-CT2: NOP keeps OVR and clears the result code. -/
theorem test_nop_keeps_overrun :
    after { State.reset with status := ⟨false, true, true, .invalidEncoding, 12#4, 2#4⟩ } 0
      (fun t => t.status.toWord) = some 0x00000F0A#32 := by decide

/-- V-CT6 and V-CT7: illegal words show LASTOP. -/
theorem test_illegal_words : after State.reset 0x11 (fun t => t.status.toWord) = some 0x00001F42#32 ∧
    after State.reset 0xFFFFFFFF (fun t => t.status.toWord) = some 0x0000FF42#32 := by decide

/-- 10_state.md R36 and the STATUS word of V-BU11. -/
theorem test_status_word :
    Status.toWord ⟨false, true, true, .invalidEncoding, 12#4, 2#4⟩ = 0x00002C1A#32 ∧
    (Status.writeOneToClear ⟨false, true, true, .invalidEncoding, 12#4, 2#4⟩ 0xFFFFFFFF#32).toWord = 0x00002C10#32 ∧
    (Status.writeOneToClear ⟨false, true, true, .invalidEncoding, 12#4, 2#4⟩ 0x2#32).toWord = 0x00002C18#32 := by
  decide

/-! ### States that meet the hypotheses of the statements -/

/-- An idle block with one pending input. -/
def idleWith (q : Request) : State := { State.reset with requests := [q] }

/-- A block with the command word `w` in flight and one pending input. -/
def busyWith (w : Word) (q : Request) : State := { acceptCommand State.reset w with requests := [q] }

/-- A block held in reset with one pending input. -/
def heldWith (q : Request) : State := { State.reset with resetAsserted := true, requests := [q] }

/-- The code buffer that PHRASE leaves from the zero seed: a valid phrase. -/
def validPhrase : State := complete State.reset (phraseResult State.reset)

theorem witness_OpcodeFieldSelectsCommand :
    (∀ op : Fin 16, (BitVec.ofNat 32 op.val).extractLsb' 4 28 = 0#28) ∧
    6 ≤ ((0x6#32 : Word).extractLsb' 0 4).toNat ∧ 6 ≤ ((0xF#32 : Word).extractLsb' 0 4).toNat := by decide

theorem witness_DecodeAndEncodeAgree :
    Instr.phrase.wellFormed = true ∧ decodeCommand 0x4#32 = .ok .phrase := ⟨rfl, rfl⟩

theorem witness_IllegalWordsAreAcceptedAndRejected :
    (∃ e, decodeCommand (acceptCommand State.reset 0x10#32).latch = .error e) ∧
    (∃ e, decodeCommand (acceptCommand State.reset 0x6#32).latch = .error e) ∧ State.reset.status.busy = false :=
  ⟨⟨_, rfl⟩, ⟨_, rfl⟩, rfl⟩

theorem witness_StepRunsTheDecodedCommand :
    (engineTurn (acceptCommand State.reset 0x1#32) = true ∧
      decodeCommand (acceptCommand State.reset 0x1#32).latch = .ok .encode) ∧
    (engineTurn (busyWith 0x2#32 (hostRd .status true)) = true) ∧
    (engineTurn (acceptCommand State.reset 0x7#32) = true ∧
      ∃ e, decodeCommand (acceptCommand State.reset 0x7#32).latch = .error e) ∧
    portTakes (busyWith 0x1#32 (hostRd .status false)) (hostRd .status false) [] ∧
    (engineTurn State.reset = false ∧ State.reset.requests = []) :=
  ⟨⟨rfl, rfl⟩, rfl, ⟨rfl, _, rfl⟩, ⟨rfl, rfl⟩, rfl, rfl⟩

theorem witness_CommandWriteIsAcceptedThenRuns (i : Instr) (b : Bool) :
    portTakes (idleWith (hostCmd i b)) (hostCmd i b) [] ∧ (idleWith (hostCmd i b)).resetAsserted = false ∧
    (idleWith (hostCmd i b)).status.busy = false ∧
    completionFirst { idleWith (hostCmd i b) with requests := [] } = true := ⟨⟨rfl, rfl⟩, rfl, rfl, rfl⟩

theorem witness_IllegalWordChangesStatusAndLatchOnly (v : Word) (b : Bool) :
    portTakes (idleWith (hostWr .cmd v b)) (hostWr .cmd v b) [] ∧ (idleWith (hostWr .cmd v b)).resetAsserted = false ∧
    (idleWith (hostWr .cmd v b)).status.busy = false ∧
    completionFirst { idleWith (hostWr .cmd v b) with requests := [] } = true ∧
    (0x10#32 : Word).extractLsb' 4 28 ≠ 0#28 ∧ 6 ≤ ((0x6#32 : Word).extractLsb' 0 4).toNat :=
  ⟨⟨rfl, rfl⟩, rfl, rfl, rfl, by decide, by decide⟩

theorem witness_NopCompletesAndWritesNothing : ∀ r, writeSet .nop r = false := fun _ => rfl

/-- The hypothesis `exec .encode s = .next t` of the statements about ENCODE; the second seed differs from the first in
seed byte 5 alone. -/
theorem witness_EncodeGivesAWellFormedTuple_SeedBitsLandInTheirCodes :
    (∃ t, exec .encode (start [0, 0, 0, 0] 0 0) = .next t) ∧
    (∃ t, exec .encode (start [0, 0x0000FF00, 0, 0] 0 0) = .next t) ∧
    (∀ m : Fin 16, m ≠ 5 → seedByte (start [0, 0, 0, 0] 0 0) m = seedByte (start [0, 0x0000FF00, 0, 0] 0 0) m) ∧
    (∀ k : Fin 10, streamBit (seedBytes (start [0, 0, 0, 0] 0 0)) (10 * 3 + k.val) =
      streamBit (seedBytes (start [0, 0x0000FF00, 0, 0] 0 0)) (10 * 3 + k.val)) :=
  ⟨⟨_, exec_eq_complete _ _⟩, ⟨_, exec_eq_complete _ _⟩, by decide, by decide⟩

theorem witness_DecodeRecoversTheSeedBits :
    (∀ n : Fin 13, ((start [] 1023 1020).code[n]).toNat < 1024) ∧
    ((start [] 1023 1020).code[12]).toNat % 4 = 0 := by decide

/-- The second state of each clause: the codes of ENCODE's result beside another seed buffer, and the seed of DECODE's
result beside another code buffer. -/
theorem witness_EncodeDecodeRoundTrip :
    (∃ t, exec .encode (start [1, 2, 3, 4] 0 0) = .next t ∧
      (∀ n : Fin 13, ({ t with seed := (start [9] 0 0).seed } : State).code[n] = t.code[n]) ∧
      (start [9] 0 0).seed ≠ t.seed) ∧
    ((∀ n : Fin 13, ((start [] 1023 1020).code[n]).toNat < 1024) ∧ ((start [] 1023 1020).code[12]).toNat % 4 = 0 ∧
      ∃ t, exec .decode (start [] 1023 1020) = .next t ∧ t.status.err = .none ∧
        ({ t with code := (start [] 5 7).code } : State).seed = t.seed ∧ (start [] 5 7).code ≠ t.code) :=
  ⟨⟨_, exec_eq_complete _ _, fun _ => rfl, by decide⟩, by decide, by decide, _, exec_eq_complete _ _, by decide, rfl,
    by decide⟩

theorem witness_RangeIsReportedAtTheLowestPosition :
    (1024 ≤ (codeReg (start [] 0 1024) 12).toNat ∧ ∀ m : Fin 15, m < 12 → (codeReg (start [] 0 1024) m).toNat < 1024) ∧
    (1024 ≤ (codeReg (start [] 1024 0) 0).toNat ∧ ∀ m : Fin 15, m < 0 → (codeReg (start [] 1024 0) m).toNat < 1024) ∧
    (1024 ≤ (codeReg (writeReg State.reset (.code 14) 1024#32) 14).toNat ∧
      ∀ m : Fin 15, m < 14 → (codeReg (writeReg State.reset (.code 14) 1024#32) m).toNat < 1024) ∧
    State.reset.status.busy = false := by decide

theorem witness_InvalidEncodingIsReported :
    (∀ n : Fin 15, (codeReg (start [] 1023 1021) n).toNat < 1024) ∧ ((start [] 1023 1021).code[12]).toNat % 4 ≠ 0 := by
  decide

theorem witness_ChecksumWritesTheFirstTwentyDigestBits :
    ∀ k : Fin 20, digestBit (digestOf 0xFF 0xFF 0xF0) k.val = digestBit (digestOf 0xFF 0xFF 0xFF) k.val := by
  intro k; fin_cases k <;> simp [digestBit, digestByte, digestOf]

theorem witness_ChecksumDependsOnTheSeedAlone :
    (start [1, 2, 3, 4] 0 0).seed = (start [1, 2, 3, 4] 5 7).seed ∧ start [1, 2, 3, 4] 0 0 ≠ start [1, 2, 3, 4] 5 7 := by
  decide

/-- The words of `validPhrase`. -/
theorem validPhrase_code13 : validPhrase.code[13] = (checksumWords (seedBytes State.reset)).1.setWidth 32 := by
  simp [validPhrase, phraseResult, complete_succeed, applyWrites_append]

theorem validPhrase_code14 : validPhrase.code[14] = (checksumWords (seedBytes State.reset)).2.setWidth 32 := by
  simp [validPhrase, phraseResult, complete_succeed, applyWrites_append]

theorem validPhrase_data : ∀ n : Fin 13, validPhrase.code[n] = 0#32 := by decide

theorem validPhrase_decodes : decodeCodes (dataCodes validPhrase) = seedBytes State.reset := by
  rw [dataCodes_congr validPhrase State.reset (by decide)]
  decide

theorem validPhrase_inRange : ∀ n : Fin 15, (codeReg validPhrase n).toNat < 1024 := by
  intro n
  rcases (by omega : n.val < 13 ∨ n = 13 ∨ n = 14) with h | rfl | rfl
  · have := validPhrase_data ⟨n.val, h⟩
    simp only [codeReg, Fin.getElem_fin] at this ⊢
    rw [this]; decide
  · have h := congrArg BitVec.toNat validPhrase_code13
    rw [BitVec.toNat_setWidth] at h
    exact lt_of_le_of_lt (h.le.trans (Nat.mod_le _ _)) (checksumWords (seedBytes State.reset)).1.isLt
  · have h := congrArg BitVec.toNat validPhrase_code14
    rw [BitVec.toNat_setWidth] at h
    exact lt_of_le_of_lt (h.le.trans (Nat.mod_le _ _)) (checksumWords (seedBytes State.reset)).2.isLt

theorem witness_ValidateWritesTheDecodedSeed :
    (∀ n : Fin 15, (codeReg validPhrase n).toNat < 1024) ∧ (validPhrase.code[12]).toNat % 4 = 0 ∧
    validPhrase.code[13] = (checksumWords (decodeCodes (dataCodes validPhrase))).1.setWidth 32 ∧
    validPhrase.code[14] = (checksumWords (decodeCodes (dataCodes validPhrase))).2.setWidth 32 := by
  rw [validPhrase_decodes]
  exact ⟨validPhrase_inRange, by decide, validPhrase_code13, validPhrase_code14⟩

/-- A checksum word that differs from the one the seed has: whichever it is, 0 or 1 is another. -/
def otherWord (w : Word) : Word := if w = 0#32 then 1#32 else 0#32

theorem otherWord_spec (w : Word) : otherWord w ≠ w ∧ (otherWord w).toNat < 1024 := by
  unfold otherWord
  split
  · next h => subst h; decide
  · next h => exact ⟨fun e => h e.symm, by decide⟩

/-- An all-zero code buffer but position 13, which differs from the zero seed's first checksum word. -/
def mismatch13 : State :=
  { State.reset with code := State.reset.code.set 13 (otherWord ((checksumWords (seedBytes State.reset)).1.setWidth 32)) }

/-- The same for position 14. -/
def mismatch14 : State :=
  { State.reset with code := State.reset.code.set 14 (otherWord ((checksumWords (seedBytes State.reset)).2.setWidth 32)) }

theorem witness_ValidateReportsAMismatch :
    ((∀ n : Fin 15, (codeReg mismatch13 n).toNat < 1024) ∧ (mismatch13.code[12]).toNat % 4 = 0 ∧
      mismatch13.code[13] ≠ (checksumWords (decodeCodes (dataCodes mismatch13))).1.setWidth 32) ∧
    ((∀ n : Fin 15, (codeReg mismatch14 n).toNat < 1024) ∧ (mismatch14.code[12]).toNat % 4 = 0 ∧
      mismatch14.code[14] ≠ (checksumWords (decodeCodes (dataCodes mismatch14))).2.setWidth 32) := by
  have h13 : decodeCodes (dataCodes mismatch13) = seedBytes State.reset := by
    rw [dataCodes_congr mismatch13 State.reset (by decide)]; decide
  have h14 : decodeCodes (dataCodes mismatch14) = seedBytes State.reset := by
    rw [dataCodes_congr mismatch14 State.reset (by decide)]; decide
  refine ⟨⟨fun n => ?_, by decide, ?_⟩, ⟨fun n => ?_, by decide, ?_⟩⟩
  · simp only [codeReg, mismatch13, Fin.getElem_fin, Vector.getElem_set]
    split
    · exact (otherWord_spec _).2
    · simp
  · rw [h13]; simpa [mismatch13] using (otherWord_spec _).1
  · simp only [codeReg, mismatch14, Fin.getElem_fin, Vector.getElem_set]
    split
    · exact (otherWord_spec _).2
    · simp
  · rw [h14]; simpa [mismatch14] using (otherWord_spec _).1

theorem witness_EveryWellFormedTupleHasOneSeed : wellFormedTuple (tuple 1023 1023 1020) = true := by decide

theorem witness_PhraseThenValidateKeepsTheSeed :
    exec .phrase State.reset = .next validPhrase ∧ { validPhrase with seed := (start [9] 0 0).seed }.code = validPhrase.code :=
  ⟨exec_eq_complete _ _, rfl⟩

/-- VALIDATE accepts `validPhrase`. -/
theorem validPhrase_accepted : ∃ t, exec .validate validPhrase = .next t ∧ t.status.err = .none := by
  refine ⟨_, exec_eq_complete _ _, ?_⟩
  obtain ⟨h1, h2, h3, h4⟩ := witness_ValidateWritesTheDecodedSeed
  have hr := (firstOutOfRange_eq_none 15 validPhrase).2 fun n _ => h1 n
  have hp : padBitsSet validPhrase = false := by decide
  have hm : checksumMatches validPhrase (checksumWords (decodeCodes (dataCodes validPhrase))) = true := by
    simp only [checksumMatches, codeReg, Bool.and_eq_true, beq_iff_eq]
    exact ⟨h3, h4⟩
  simp [commandResult, validateResult, hr, hp, hm, succeed]

theorem witness_ChangedChecksumWordIsRejected (n : Fin 15) :
    (∃ t, exec .validate validPhrase = .next t ∧ t.status.err = .none) ∧
    (otherWord (codeReg validPhrase n)).toNat < 1024 ∧ otherWord (codeReg validPhrase n) ≠ codeReg validPhrase n ∧
    13 ≤ (13 : Fin 15).val ∧ 13 ≤ (14 : Fin 15).val :=
  ⟨validPhrase_accepted, (otherWord_spec _).2, (otherWord_spec _).1, by decide, by decide⟩

theorem witness_CommandsUseTheirFixedRegisters :
    sameOperands .nop (start [1] 1 1) (start [2] 2 2) ∧ sameOperands .encode (start [1] 1 1) (start [1] 2 2) ∧
    sameOperands .checksum (start [1] 1 1) (start [1] 2 2) ∧ sameOperands .phrase (start [1] 1 1) (start [1] 2 2) ∧
    sameOperands .decode (start [1] 1 4) { start [2] 1 4 with code := (start [] 1 4).code.set 13 9#32 } ∧
    sameOperands .validate (start [1] 1 4) (start [2] 1 4) :=
  ⟨trivial, by unfold sameOperands; decide, by unfold sameOperands; decide, by unfold sameOperands; decide,
    by unfold sameOperands; decide, by unfold sameOperands; decide⟩

/-- Writes that the port takes: of every register and value, on an idle block and on a block with any word in
flight. -/
theorem witness_writes (r : Reg) (v w : Word) :
    (portTakes (idleWith (hostWr r v false)) (hostWr r v false) [] ∧
      (idleWith (hostWr r v false)).resetAsserted = false ∧ (idleWith (hostWr r v false)).status.busy = false) ∧
    (portTakes (busyWith w (hostWr r v false)) (hostWr r v false) [] ∧
      (busyWith w (hostWr r v false)).resetAsserted = false ∧ (busyWith w (hostWr r v false)).status.busy = true) :=
  ⟨⟨⟨rfl, rfl⟩, rfl, rfl⟩, ⟨⟨rfl, rfl⟩, rfl, rfl⟩⟩

theorem witness_IssueAcceptsOrDrops (v w : Word) :
    portTakes (idleWith (hostWr .cmd v false)) (hostWr .cmd v false) [] ∧
    (busyWith w (hostWr .cmd v false)).status.busy = true := ⟨(witness_writes .cmd v w).1.1, rfl⟩

theorem witness_WritesWhileBusy_WritesWhileIdle (r : Reg) (v w : Word) :
    portTakes (busyWith w (hostWr r v false)) (hostWr r v false) [] ∧
    portTakes (idleWith (hostWr r v false)) (hostWr r v false) [] ∧ (0x2#32 : Word)[0] = false :=
  ⟨(witness_writes r v w).2.1, (witness_writes r v w).1.1, rfl⟩

theorem witness_SoftResetRestoresTheResetState (w : Word) :
    portTakes (busyWith w (hostWr .ctrl 0xFFFFFFFF#32 false)) (hostWr .ctrl 0xFFFFFFFF#32 false) [] ∧
    portTakes (idleWith (hostWr .ctrl 1#32 true)) (hostWr .ctrl 1#32 true) [] ∧
    (0xFFFFFFFF#32 : Word)[0] = true ∧ (1#32 : Word)[0] = true := ⟨⟨rfl, rfl⟩, ⟨rfl, rfl⟩, rfl, rfl⟩

theorem witness_HardwareResetHoldsTheResetState (w : Word) :
    portTakes (busyWith w ⟨.assertReset, false⟩) ⟨.assertReset, false⟩ [] ∧
    portTakes (heldWith ⟨.releaseReset, true⟩) ⟨.releaseReset, true⟩ [] ∧
    ((heldWith ⟨.releaseReset, true⟩).resetAsserted = true ∧ registersReset (heldWith ⟨.releaseReset, true⟩) ∧
      ∃ t, step (heldWith ⟨.releaseReset, true⟩) = .next t) :=
  ⟨⟨rfl, rfl⟩, ⟨rfl, rfl⟩, rfl, ⟨rfl, rfl, rfl, rfl⟩, _, rfl⟩

theorem witness_ReadsAnswerTheRegister (r : Reg) :
    (portTakes (idleWith (hostRd r true)) (hostRd r true) [] ∧ inFlightTarget (idleWith (hostRd r true)) r = false) ∧
    (portTakes (busyWith 2#32 (hostRd (.code 0) false)) (hostRd (.code 0) false) [] ∧
      inFlightTarget (busyWith 2#32 (hostRd (.code 0) false)) (.code 0) = false) :=
  ⟨⟨⟨rfl, rfl⟩, rfl⟩, ⟨rfl, rfl⟩, rfl⟩

/-- A block with a command in flight is consistent. -/
theorem busyWith_consistent (q : Request) : Consistent (busyWith 2#32 q) :=
  ⟨fun _ => ⟨rfl, rfl, rfl⟩, rfl, rfl, trivial, (fun _ h => by cases h), (fun h => by cases h)⟩

theorem witness_ReadsWhileBusy :
    (portTakes (busyWith 2#32 (hostRd (.seed 0) false)) (hostRd (.seed 0) false) [] ∧
      inFlightTarget (busyWith 2#32 (hostRd (.seed 0) false)) (.seed 0) = true) ∧
    (portTakes (busyWith 2#32 (hostRd .status false)) (hostRd .status false) [] ∧
      Consistent (busyWith 2#32 (hostRd .status false)) ∧ (busyWith 2#32 (hostRd .status false)).status.busy = true) :=
  ⟨⟨⟨rfl, rfl⟩, rfl⟩, ⟨rfl, rfl⟩, busyWith_consistent _, rfl⟩

/-- Accesses of the window at each boundary of R44: the last register, the first and the last reserved offset, a
misaligned offset, and a narrow width. -/
theorem witness_BusErrorsChangeNothing :
    (∀ a : Access, portTakes (idleWith ⟨.access a, true⟩) ⟨.access a, true⟩ []) ∧
    windowOffset (Config.base + 0x58) = some 0x58 ∧ windowOffset (Config.base + 0x5C) = some 0x5C ∧
    windowOffset (Config.base + 0xFC) = some 0xFC ∧
    (windowOffset (Config.base + 0x11) = some 0x11 ∧ (Config.base + 0x11) % 4 ≠ 0) ∧
    accessWidth (.read (Config.base + 0x10) 2) ≠ 4 :=
  ⟨fun _ => ⟨rfl, rfl⟩, (windowOffset_eq_some _ _).2 ⟨by decide, rfl⟩, (windowOffset_eq_some _ _).2 ⟨by decide, rfl⟩,
    (windowOffset_eq_some _ _).2 ⟨by decide, rfl⟩,
    ⟨(windowOffset_eq_some _ _).2 ⟨by decide, rfl⟩, by rw [base_add_mod_four]; decide⟩, by decide⟩

theorem witness_UnservableAccessStops (a : Access) (r : Reg) :
    portTakes (idleWith ⟨.access a, true⟩) ⟨.access a, true⟩ [] ∧
    Config.base + 256 ≤ accessAddr (.read (Config.base + 256) 4) ∧
    (portTakes (heldWith (hostRd r true)) (hostRd r true) [] ∧ (heldWith (hostRd r true)).resetAsserted = true ∧
      windowOffset (accessAddr (readAccess r)) = some (offsetOf r)) :=
  ⟨⟨rfl, rfl⟩, Nat.le_refl _, ⟨rfl, rfl⟩, rfl, windowOffset_base_add r⟩

theorem witness_EitherOrderIsAdmitted (b : Bool) :
    (busyWith 1#32 (hostRd .status b)).status.busy = true ∧ (busyWith 1#32 (hostRd .status b)).resetAsserted = false ∧
    (busyWith 1#32 (hostRd .status b)).requests = hostRd .status b :: [] := ⟨rfl, rfl, rfl⟩

/-- OVR is cleared by a STATUS write and set by a dropped write. -/
theorem witness_OverrunIsSticky :
    (∃ t, step { idleWith (hostAck true) with status := Status.reset.overrun } = .next t ∧ t.status.ovr = false) ∧
    (∃ t, step (busyWith 1#32 (hostWr (.seed 0) 0#32 false)) = .next t ∧ t.status.ovr = true) :=
  ⟨⟨_, step_hostWr _ .status _ true [] ⟨rfl, rfl⟩ rfl, rfl⟩, ⟨_, step_hostWr _ (.seed 0) _ false [] ⟨rfl, rfl⟩ rfl, rfl⟩⟩

/-- The second state is reset by its step. -/
theorem witness_CommandInFlightKeepsItsOperands :
    ((busyWith 1#32 (hostRd .status false)).status.busy = true ∧ engineTurn (busyWith 1#32 (hostRd .status false)) = false ∧
      ∃ t, step (busyWith 1#32 (hostRd .status false)) = .next t) ∧
    (engineTurn (busyWith 1#32 ⟨.assertReset, false⟩) = false ∧ ∃ t, step (busyWith 1#32 ⟨.assertReset, false⟩) = .next t) :=
  ⟨⟨rfl, rfl, _, step_hostRd _ .status false [] ⟨rfl, rfl⟩ rfl⟩, rfl, _, rfl⟩

theorem witness_EveryStepKeepsConsistent :
    Consistent (busyWith 2#32 (hostRd .status true)) ∧ ∃ t, step (busyWith 2#32 (hostRd .status true)) = .next t :=
  ⟨busyWith_consistent _, _, rfl⟩

theorem witness_ServableInputsNeverStop_AcceptedCommandFinishes :
    servable (busyWith 1#32 (hostRd .status false)) = true ∧ (busyWith 1#32 (hostRd .status false)).resetAsserted = false ∧
    (busyWith 1#32 (hostRd .status false)).status.busy = true := by
  refine ⟨?_, rfl, rfl⟩
  simp [servable, busyWith, inputsServable, hostRd, readAccess, accessAddr]

end Sys2Proof.Tests
end

section
/-! PROOFS. The registers that store nothing (ID, CTRL, CMD) and the reset state (10_state.md sections 5 and 6). -/

namespace Sys2Proof.Machine

/-! ### ID, CTRL and CMD store nothing -/

@[simp] theorem regValue_id (s : State) : regValue s .id = idValue := rfl
@[simp] theorem regValue_ctrl (s : State) : regValue s .ctrl = 0#32 := rfl
@[simp] theorem regValue_cmd (s : State) : regValue s .cmd = 0#32 := rfl
@[simp] theorem writeReg_id (s : State) (v : Word) : writeReg s .id v = s := rfl

/-- MAGIC lies above the low byte, so it is read from the constant part of ID (R31). -/
theorem idValue_magic : idValue.extractLsb' 16 16 = 0x5EED#16 := by
  rw [idValue, BitVec.extractLsb'_append_eq_of_le (by decide)]
  exact BitVec.extractLsb'_append_eq_left

/-- EDITION lies above the low byte, so it is read from the constant part of ID (R31). -/
theorem idValue_edition : idValue.extractLsb' 8 8 = 0x01#8 := by
  rw [idValue, BitVec.extractLsb'_append_eq_of_le (by decide)]
  exact BitVec.extractLsb'_append_eq_right

/-- The low byte of ID is the instance's own (R31). -/
theorem idValue_digestId : idValue.extractLsb' 0 8 = Config.digestId :=
  BitVec.extractLsb'_append_eq_right

/-- The fields of ID as the register table writes its value (R25). -/
theorem idValue_eq_or : idValue = 0x5EED0100#32 ||| Config.digestId.setWidth 32 := by
  rw [idValue, BitVec.append_def]
  rfl

/-- Settles O39, from the three fields of ID: its value is a constant of the instance, and a write to it is void. -/
theorem idIsHardwired : Obligations.IdIsHardwired := by
  intro s v
  rw [regValue_id]
  exact ⟨idValue_magic, idValue_edition, idValue_digestId, writeReg_id s v⟩

/-! ### The reset state -/

theorem Status.reset_toWord : Status.reset.toWord = 0x00000F00#32 := by decide

theorem registersReset_reset : registersReset State.reset :=
  ⟨State.reset_seed, State.reset_code, State.reset_latch, State.reset_status⟩

/-- Settles O43: the stored registers by the fields of the reset state, the others by what a read of them finds. -/
theorem resetStateIsAsStated : Obligations.ResetStateIsAsStated := by
  refine ⟨registersReset_reset, ?_, ?_, regValue_ctrl _, regValue_cmd _⟩
  · rw [State.reset_status, Status.reset_toWord]
  · rw [regValue_id, idValue_eq_or]

end Sys2Proof.Machine
end

section
/-! PROOFS. The register window: its bytes (20_memory.md section 2), and what an access of it is answered (sections 3
and 4). -/

namespace Sys2Proof.Machine

/-! ### The bytes of the window -/

/-- A register stands at a multiple of 4, so a byte offset within its word gives back the register and the byte's
number: the byte is those bits of the register (R41). -/
theorem windowByte_offsetOf_add (s : State) (r : Reg) (j : Nat) (hj : j < 4) :
    windowByte s (offsetOf r + j) = some ((regValue s r).extractLsb' (8 * j) 8) := by
  have halign := offsetOf_aligned r
  have hbyte : (offsetOf r + j) % 4 = j := by omega
  rw [windowByte, hbyte, Nat.add_sub_cancel, regAt_offsetOf, Option.map_some]

/-- Seed byte `i` stands `i mod 4` bytes into SEED(i div 4) (R25, R34). -/
theorem offsetOf_seed_add_byte (i : Fin 16) :
    offsetOf (.seed ⟨i.val / 4, by omega⟩) + i.val % 4 = 0x010 + i.val := by
  simp only [offsetOf]; omega

/-- Settles O41: a byte of the window is read through its register, and a seed byte is such a byte of a SEED register. -/
theorem windowBytesAreLittleEndian : Obligations.WindowBytesAreLittleEndian := by
  intro s
  refine ⟨fun r j => windowByte_offsetOf_add s r j j.isLt, fun i => ?_⟩
  rw [← offsetOf_seed_add_byte i, windowByte_offsetOf_add s _ _ (Nat.mod_lt _ (by decide))]
  rfl

/-! ### Bus errors -/

/-- An address of the window has the alignment of its offset (R44, R49). -/
theorem mod_four_of_windowOffset {a o : Nat} (h : windowOffset a = some o) : a % 4 = o % 4 := by
  obtain ⟨-, rfl⟩ := (windowOffset_eq_some a o).1 h
  exact base_add_mod_four o

/-- The step that serves an access of the window. -/
theorem step_access_of_windowOffset (s : State) (a : Access) (after : Bool) (rest : List Request) (o : Nat)
    (h : portTakes s { event := .access a, afterCompletion := after } rest) (hr : s.resetAsserted = false)
    (ho : windowOffset (accessAddr a) = some o) :
    step s = .next (serveAtOffset { s with requests := rest } a o) := by
  rw [step_of_portTakes s _ _ h]
  simp [serveEvent, serveAccess, ho, hr]

theorem serveAtOffset_of_legalTarget_none (s : State) (a : Access) (o : Nat)
    (h : legalTarget o (accessWidth a) = none) :
    serveAtOffset s a o = answer s (.busError (accessAddr a) (accessDirection a)) := by
  simp [serveAtOffset, h]

theorem serveAtOffset_of_legalTarget_some (s : State) (a : Access) (o : Nat) (r : Reg)
    (h : legalTarget o (accessWidth a) = some r) : serveAtOffset s a o = serveRegister s a r := by
  simp [serveAtOffset, h]

/-- A register write gives no answer of its own: the port's answers stay as they were, a soft reset's too (R46). -/
theorem writeReg_replies (s : State) (r : Reg) (v : Word) : (writeReg s r v).replies = s.replies := by
  obtain ⟨h, -⟩ | ⟨-, -, h⟩ | ⟨-, -, h⟩ | ⟨-, h⟩ | ⟨-, -, h⟩ | ⟨k, -, -, h⟩ | ⟨n, -, -, h⟩ := writeReg_cases s r v <;>
    rw [h] <;> rfl

/-- An access that names a register gets one answer, the read's data or the write's end (R45, R46). -/
theorem serveRegister_replies (s : State) (a : Access) (r : Reg) :
    ∃ x, (serveRegister s a r).replies = x :: s.replies ∧ ∀ ad d, x ≠ .busError ad d := by
  cases a with
  | read ad w =>
    obtain ⟨v, k, hread⟩ := readReg_frame s r
    exact ⟨.readData v, congrArg State.replies hread, nofun⟩
  | write ad w v =>
    exact ⟨.writeDone, congrArg (List.cons _) (writeReg_replies s r v), nofun⟩

/-- Settles O36: the condition is that the access has no legal target; the step then only answers the bus error, and
else it serves the register that the access names. -/
theorem busErrorsChangeNothing : Obligations.BusErrorsChangeNothing := by
  intro s a after rest o htakes hreleased hoffset
  rw [step_access_of_windowOffset s a after rest o htakes hreleased hoffset, mod_four_of_windowOffset hoffset]
  have hbad := legalTarget_eq_none o (accessWidth a)
  split
  · next h =>
    rw [serveAtOffset_of_legalTarget_none _ a o (hbad.2 h)]
    rfl
  · next h =>
    obtain ⟨r, htarget⟩ := Option.ne_none_iff_exists'.1 (mt hbad.1 h)
    obtain ⟨x, hanswer, hx⟩ := serveRegister_replies { s with requests := rest } a r
    rw [serveAtOffset_of_legalTarget_some _ a o r htarget]
    exact ⟨_, x, rfl, hanswer, hx⟩

end Sys2Proof.Machine
end

section
/-! PROOFS. Command words (30_encoding.md sections 1 and 2): a word is its two fields, the legal words are the commands'
own, and what becomes of an illegal word. -/

namespace Sys2Proof

/-! ### The two fields of a command word -/

/-- RSV above OP is the whole word (R55). -/
theorem rsvField_append_opField (v : Word) : rsvField v ++ opField v = v :=
  BitVec.extractLsb'_append_extractLsb' (w := 28) (len := 4)

/-- With RSV zero a word is the zero extension of its opcode (R66). -/
theorem eq_setWidth_opField (v : Word) (hrsv : rsvField v = 0#28) : v = (opField v).setWidth 32 :=
  calc
    v = rsvField v ++ opField v := (rsvField_append_opField v).symm
    _ = 0#28 ++ opField v := by rw [hrsv]
    _ = (opField v).setWidth 32 := (BitVec.setWidth_eq_append (by decide)).symm

/-! ### Decode and encode -/

/-- The word that decodes to a command is that command's own: the decode is injective on the legal words (R66). -/
theorem decodeCommand_eq_ok_iff_eq_encodeCommand (v : Word) (i : Instr) :
    decodeCommand v = .ok i ↔ v = encodeCommand i := by
  constructor
  · intro h
    obtain ⟨hrsv, hop⟩ := (decodeCommand_eq_ok v i).1 h
    rw [encodeCommand, ← hop]
    exact eq_setWidth_opField v hrsv
  · rintro rfl
    exact decodeCommand_encodeCommand i

/-- The words of the six commands (R56). -/
theorem exists_eq_encodeCommand_iff (v : Word) :
    (∃ i, v = encodeCommand i) ↔ v ∈ [0#32, 1#32, 2#32, 3#32, 4#32, 5#32] := by
  simp only [List.mem_cons, List.not_mem_nil, or_false]
  constructor
  · rintro ⟨i, rfl⟩
    cases i <;> decide
  · rintro (h | h | h | h | h | h)
    exacts [⟨.nop, h⟩, ⟨.encode, h⟩, ⟨.decode, h⟩, ⟨.checksum, h⟩, ⟨.phrase, h⟩, ⟨.validate, h⟩]

/-- Settles O2: the words that decode to a command are its own word alone, and RSV, which is zero in them, is all that a
word holds above its opcode. -/
theorem decodeAndEncodeAgree : Obligations.DecodeAndEncodeAgree := by
  refine ⟨fun i _ => decodeCommand_encodeCommand i, fun v i => (decodeCommand_eq_ok_iff_eq_encodeCommand v i).1,
    fun v i h => eq_setWidth_opField v ((decodeCommand_eq_ok v i).1 h).1, fun v => ?_⟩
  cases decodeCommand v with
  | ok i => exact .inl ⟨i, rfl⟩
  | error e => exact .inr ⟨e, rfl⟩

/-- Settles O1: with RSV zero a word decodes to the command whose opcode OP is, and is rejected for any other OP. -/
theorem opcodeFieldSelectsCommand : Obligations.OpcodeFieldSelectsCommand := by
  refine ⟨fun v hrsv => ?_, decodeCommand_encodeCommand .nop, decodeCommand_encodeCommand .encode,
    decodeCommand_encodeCommand .decode, decodeCommand_encodeCommand .checksum, decodeCommand_encodeCommand .phrase,
    decodeCommand_encodeCommand .validate⟩
  have hselects : ∀ i, opField v = opOfCommand i → decodeCommand v = .ok i :=
    fun i hop => (decodeCommand_eq_ok v i).2 ⟨hrsv, hop⟩
  exact ⟨hselects .nop, hselects .encode, hselects .decode, hselects .checksum, hselects .phrase, hselects .validate,
    fun hop => (decodeCommand_eq_error v).2 (.inr hop)⟩

end Sys2Proof

namespace Sys2Proof.Machine

/-! ### Issue and completion -/

/-- An illegal word in LATCH is what the engine's step reports, and all it does (R57, R97). -/
theorem engineStep_of_decode_error (s : State) (h : ∃ e, decodeCommand s.latch = .error e) :
    engineStep s = .next (complete s (failWith .illegalCmd 0xF#4)) := by
  obtain ⟨e, he⟩ := h
  simp only [engineStep, he]
  rfl

/-- Settles O3: the decoder's rejections by field, acceptance by `issue`, the engine's step as a failing completion, and
the legal words as the words of the commands. -/
theorem illegalWordsAreAcceptedAndRejected : Obligations.IllegalWordsAreAcceptedAndRejected := by
  refine ⟨fun v => (decodeCommand_eq_error v).symm, fun s v hidle => ?_, fun s hillegal => ?_, fun v => ?_⟩
  · rw [issue_of_idle s v hidle]
    exact ⟨rfl, rfl⟩
  · exact ⟨_, engineStep_of_decode_error s hillegal, completedAs_complete s _,
      complete_data_of_err s _ (by decide)⟩
  · simp only [decodeCommand_eq_ok_iff_eq_encodeCommand, exists_eq_encodeCommand_iff]

/-- Settles O29: the step serves the write to CMD, which is `issue`, and `issue` drops the word or accepts it. -/
theorem issueAcceptsOrDrops : Obligations.IssueAcceptsOrDrops := by
  intro s v after rest htakes hreleased
  have hstep : step s = .next (answer (issue { s with requests := rest } v) .writeDone) :=
    step_hostWr s .cmd v after rest htakes hreleased
  constructor
  · intro hbusy
    rw [hstep, issue_of_busy { s with requests := rest } v hbusy]
    rfl
  · intro hidle
    rw [hstep, issue_of_idle { s with requests := rest } v hidle]
    rfl

/-- Settles O27: the three clauses of `complete`, and each meaning as a completion. -/
theorem completionCommitsOnSuccessOnly : Obligations.CompletionCommitsOnSuccessOnly := by
  refine ⟨fun s err pos W => ?_, fun i s => ⟨_, exec_eq_complete i s⟩, fun s => ⟨_, rfl⟩⟩
  exact ⟨completedAs_complete s ⟨err, pos, W⟩, complete_data_of_none s ⟨err, pos, W⟩,
    complete_data_of_err s ⟨err, pos, W⟩⟩

end Sys2Proof.Machine
end

section
/-! PROOFS. The operand table (30_encoding.md section 3, R62): a command's result is a function of the registers it
reads, and a completion touches exactly the registers that the result's writes name. -/

namespace Sys2Proof.Machine

/-! ### What a command reads -/

/-- The RANGE check looks at the positions below its limit alone (R104). -/
theorem firstOutOfRange_congr (limit : Nat) (s t : State)
    (h : ∀ n : Fin 15, n.val < limit → codeReg s n = codeReg t n) :
    firstOutOfRange limit s = firstOutOfRange limit t := by
  have hpred : (fun n : Fin 15 => decide (n.val < limit) && decide (1024 ≤ (codeReg s n).toNat)) =
      fun n => decide (n.val < limit) && decide (1024 ≤ (codeReg t n).toNat) := by
    funext n
    by_cases hn : n.val < limit
    · rw [h n hn]
    · simp [hn]
  rw [firstOutOfRange, firstOutOfRange, hpred]

theorem padBitsSet_congr (s t : State) (h : codeReg s 12 = codeReg t 12) : padBitsSet s = padBitsSet t := by
  rw [padBitsSet, padBitsSet, h]

theorem checksumMatches_congr (s t : State) (w : WordCode × WordCode) (h : ∀ n, codeReg s n = codeReg t n) :
    checksumMatches s w = checksumMatches t w := by
  rw [checksumMatches, checksumMatches, h, h]

/-- ENCODE, CHECKSUM and PHRASE read SEED alone, DECODE CODE0 to CODE12, VALIDATE the code buffer (R62). -/
theorem commandResult_congr (i : Instr) (s t : State) (h : sameOperands i s t) :
    commandResult i s = commandResult i t := by
  cases i with
  | nop => rfl
  | encode => simp only [commandResult, encodeResult, seedBytes_congr s t h]
  | checksum => simp only [commandResult, checksumResult, seedBytes_congr s t h]
  | phrase => simp only [commandResult, phraseResult, seedBytes_congr s t h]
  | decode =>
    have hcode : ∀ n : Fin 13, s.code[n] = t.code[n] := h
    have hrange : firstOutOfRange 13 s = firstOutOfRange 13 t :=
      firstOutOfRange_congr 13 s t fun n hn => hcode ⟨n.val, hn⟩
    simp only [commandResult, decodeResult, hrange, padBitsSet_congr s t (hcode 12), dataCodes_congr s t hcode]
  | validate =>
    have hcode : s.code = t.code := h
    have hreg : ∀ n, codeReg s n = codeReg t n := fun n => by rw [codeReg, hcode, codeReg]
    have hdata : dataCodes s = dataCodes t := dataCodes_congr s t fun n => by rw [hcode]
    simp only [commandResult, validateResult, firstOutOfRange_congr 15 s t fun n _ => hreg n,
      padBitsSet_congr s t (hreg 12), checksumMatches_congr s t _ hreg, hdata]

/-- The results of each command carry only the codes of the table (R62, R101). -/
theorem canReport_commandResult (i : Instr) (s : State) : canReport i (commandResult i s).err := by
  cases i with
  | nop | encode | checksum | phrase => rfl
  | decode =>
    obtain ⟨n, -, h⟩ | ⟨-, -, h⟩ | ⟨-, -, h⟩ := decodeResult_cases s <;>
      simp [canReport, commandResult, h, failWith, succeed]
  | validate =>
    obtain ⟨n, -, h⟩ | ⟨-, -, h⟩ | ⟨-, -, -, h⟩ | ⟨-, -, -, h⟩ := validateResult_cases s <;>
      simp [canReport, commandResult, h, failWith, succeed]

/-! ### What a command writes -/

theorem writeSet_encode_iff (r : Reg) : writeSet .encode r = true ↔ ∃ n : Fin 15, n.val ≤ 12 ∧ r = .code n := by
  cases r <;> simp [writeSet, Nat.lt_succ_iff]

theorem writeSet_decode_iff (r : Reg) : writeSet .decode r = true ↔ ∃ k, r = .seed k := by
  cases r <;> simp [writeSet]

theorem writeSet_checksum_iff (r : Reg) : writeSet .checksum r = true ↔ r = .code 13 ∨ r = .code 14 := by
  cases r with
  | code n => simp only [writeSet, Reg.code.injEq, decide_eq_true_eq]; omega
  | _ => simp [writeSet]

theorem writeSet_phrase_iff (r : Reg) : writeSet .phrase r = true ↔ ∃ n, r = .code n := by
  cases r <;> simp [writeSet]

theorem writeSet_validate_iff (r : Reg) : writeSet .validate r = true ↔ ∃ k, r = .seed k := by
  cases r <;> simp [writeSet]

/-- PHRASE writes what ENCODE and CHECKSUM write (R62). -/
theorem writeSet_phrase_eq (r : Reg) : writeSet .phrase r = (writeSet .encode r || writeSet .checksum r) := by
  cases r with
  | code n =>
    have hsplit : n.val < 13 ∨ 13 ≤ n.val := Nat.lt_or_ge _ _
    simpa [writeSet] using hsplit
  | _ => rfl

/-- The register that a write names. -/
def RegWrite.target : RegWrite → Reg
  | .seed k _ => .seed k
  | .code n _ => .code n

/-- The registers that a list of writes names. -/
def targets (W : List RegWrite) : List Reg := W.map RegWrite.target

@[simp] theorem targets_nil : targets [] = [] := rfl
@[simp] theorem targets_cons (w : RegWrite) (W : List RegWrite) : targets (w :: W) = w.target :: targets W := rfl

theorem mem_targets_append (r : Reg) (W W' : List RegWrite) :
    r ∈ targets (W ++ W') ↔ r ∈ targets W ∨ r ∈ targets W' := by
  simp [targets]

theorem mem_targets_seedWrites (r : Reg) (v : Vector Word 4) : r ∈ targets (seedWrites v) ↔ ∃ k, r = .seed k := by
  simp [targets, seedWrites, RegWrite.target, eq_comm]

theorem mem_targets_dataCodeWrites (r : Reg) (cs : DataCodes) :
    r ∈ targets (dataCodeWrites cs) ↔ writeSet .encode r = true := by
  rw [writeSet_encode_iff]
  simp only [targets, dataCodeWrites, List.map_map, List.mem_map, List.mem_finRange, true_and]
  constructor
  · rintro ⟨n, rfl⟩
    exact ⟨n.castLE (by omega), Nat.le_of_lt_succ n.isLt, rfl⟩
  · rintro ⟨n, hn, rfl⟩
    exact ⟨⟨n.val, Nat.lt_succ_of_le hn⟩, rfl⟩

theorem mem_targets_checksumWrites (r : Reg) (w : WordCode × WordCode) :
    r ∈ targets (checksumWrites w) ↔ writeSet .checksum r = true := by
  rw [writeSet_checksum_iff]
  simp [checksumWrites, RegWrite.target]

/-- A command that succeeds writes exactly the registers of its write set (R62). -/
theorem mem_targets_commandResult (i : Instr) (s : State) (h : (commandResult i s).err = .none) (r : Reg) :
    r ∈ targets (commandResult i s).writes ↔ writeSet i r = true := by
  cases i with
  | nop => simp [commandResult, succeed, writeSet]
  | encode => exact mem_targets_dataCodeWrites r _
  | checksum => exact mem_targets_checksumWrites r _
  | phrase =>
    rw [writeSet_phrase_eq, Bool.or_eq_true]
    exact (mem_targets_append r _ _).trans
      (or_congr (mem_targets_dataCodeWrites r _) (mem_targets_checksumWrites r _))
  | decode =>
    rw [writeSet_decode_iff]
    obtain ⟨n, -, hres⟩ | ⟨-, -, hres⟩ | ⟨-, -, hres⟩ := decodeResult_cases s <;>
      simp only [commandResult, hres] at h ⊢
    · cases h
    · cases h
    · exact mem_targets_seedWrites r _
  | validate =>
    rw [writeSet_validate_iff]
    obtain ⟨n, -, hres⟩ | ⟨-, -, hres⟩ | ⟨-, -, -, hres⟩ | ⟨-, -, -, hres⟩ := validateResult_cases s <;>
      simp only [commandResult, hres] at h ⊢
    · cases h
    · cases h
    · cases h
    · exact mem_targets_seedWrites r _

/-! ### Reading a register after writes -/

/-- A write leaves every register but the one it names. -/
theorem regValue_applyWrite_of_ne (s : State) (w : RegWrite) (r : Reg) (h : r ≠ w.target) :
    regValue (applyWrite s w) r = regValue s r := by
  cases w with
  | seed k v =>
    cases r with
    | seed k' =>
      have hk : k.val ≠ k'.val := fun e => h (congrArg Reg.seed (Fin.ext e.symm))
      simp [regValue, seedReg, hk]
    | _ => rfl
  | code n v =>
    cases r with
    | code n' =>
      have hn : n.val ≠ n'.val := fun e => h (congrArg Reg.code (Fin.ext e.symm))
      simp [regValue, codeReg, hn]
    | _ => rfl

/-- The target of a write holds what was written, whatever the state was. -/
theorem regValue_applyWrite_target (s t : State) (w : RegWrite) :
    regValue (applyWrite s w) w.target = regValue (applyWrite t w) w.target := by
  cases w <;> simp [regValue, seedReg, codeReg, RegWrite.target]

/-- Writes leave a register that none of them names. -/
theorem regValue_applyWrites_of_not_mem (W : List RegWrite) (s : State) (r : Reg) (h : r ∉ targets W) :
    regValue (applyWrites s W) r = regValue s r := by
  induction W generalizing s with
  | nil => rfl
  | cons w W ih =>
    obtain ⟨hw, hW⟩ := not_or.1 (mt List.mem_cons.2 h)
    rw [applyWrites_cons, ih _ hW, regValue_applyWrite_of_ne s w r hw]

/-- A register that some write names holds a value that the writes alone decide. -/
theorem regValue_applyWrites_of_mem (W : List RegWrite) (s t : State) (r : Reg) (h : r ∈ targets W) :
    regValue (applyWrites s W) r = regValue (applyWrites t W) r := by
  induction W generalizing s t with
  | nil => cases h
  | cons w W ih =>
    rw [applyWrites_cons, applyWrites_cons]
    by_cases hW : r ∈ targets W
    · exact ih _ _ hW
    · rw [regValue_applyWrites_of_not_mem W _ r hW, regValue_applyWrites_of_not_mem W _ r hW,
        (List.mem_cons.1 h).resolve_right hW]
      exact regValue_applyWrite_target s t w

/-- STATUS apart, a register reads after a successful completion as after the writes (R61). -/
theorem regValue_complete_of_none (s : State) (res : CommandResult) (r : Reg) (hr : r ≠ .status)
    (h : res.err = .none) : regValue (complete s res) r = regValue (applyWrites s res.writes) r := by
  obtain ⟨hseed, hcode⟩ := complete_data_of_none s res h
  cases r with
  | seed k => rw [regValue, seedReg, hseed]; rfl
  | code n => rw [regValue, codeReg, hcode]; rfl
  | status => exact absurd rfl hr
  | _ => rfl

/-- STATUS apart, a register reads after a failed completion as before it (R61). -/
theorem regValue_complete_of_err (s : State) (res : CommandResult) (r : Reg) (hr : r ≠ .status)
    (h : res.err ≠ .none) : regValue (complete s res) r = regValue s r := by
  obtain ⟨hseed, hcode⟩ := complete_data_of_err s res h
  cases r with
  | seed k => rw [regValue, seedReg, hseed]; rfl
  | code n => rw [regValue, codeReg, hcode]; rfl
  | status => exact absurd rfl hr
  | _ => rfl

/-- STATUS apart, a command leaves every register outside its write set (R62). -/
theorem regValue_complete_of_not_writeSet (i : Instr) (s : State) (r : Reg) (hr : r ≠ .status)
    (h : writeSet i r = false) : regValue (complete s (commandResult i s)) r = regValue s r := by
  by_cases herr : (commandResult i s).err = .none
  · rw [regValue_complete_of_none s _ r hr herr]
    refine regValue_applyWrites_of_not_mem _ s r fun hmem => ?_
    rw [(mem_targets_commandResult i s herr r).1 hmem] at h
    cases h
  · exact regValue_complete_of_err s _ r hr herr

/-- What a successful command leaves in its write set is decided by the registers it reads (R62). -/
theorem regValue_complete_of_writeSet (i : Instr) (s t : State) (r : Reg) (hr : r ≠ .status)
    (hop : sameOperands i s t) (herr : (commandResult i s).err = .none) (h : writeSet i r = true) :
    regValue (complete s (commandResult i s)) r = regValue (complete t (commandResult i t)) r := by
  rw [← commandResult_congr i s t hop, regValue_complete_of_none s _ r hr herr,
    regValue_complete_of_none t _ r hr herr]
  exact regValue_applyWrites_of_mem _ s t r ((mem_targets_commandResult i s herr r).2 h)

/-- Settles O28: the result depends on the operands alone, and its writes name the write set and nothing else. -/
theorem commandsUseTheirFixedRegisters : Obligations.CommandsUseTheirFixedRegisters := by
  refine ⟨fun _ => rfl, writeSet_encode_iff, writeSet_decode_iff, writeSet_checksum_iff, writeSet_phrase_iff,
    writeSet_validate_iff, fun i s s' hop => ?_, fun s => ?_⟩
  · have hres := commandResult_congr i s s' hop
    refine ⟨_, _, exec_eq_complete i s, exec_eq_complete i s', ?_⟩
    simp only [complete_status, Status.completed_err, Status.completed_pos]
    refine ⟨canReport_commandResult i s, congrArg _ hres, congrArg _ hres, fun herr => ⟨?_, ?_⟩, ?_, ?_⟩
    · exact fun k => regValue_complete_of_writeSet i s s' (.seed k) nofun hop herr
    · exact fun n => regValue_complete_of_writeSet i s s' (.code n) nofun hop herr
    · exact fun k => regValue_complete_of_not_writeSet i s (.seed k) nofun
    · exact fun n => regValue_complete_of_not_writeSet i s (.code n) nofun
  · exact ⟨_, execIllegal_eq s, rfl, rfl, rfl⟩

end Sys2Proof.Machine
end

section
/-! PROOFS. The Codec commands (40_codec.md): the bit stream, where it lands among the codes, and the two round
trips. -/

namespace Sys2Proof.Machine

/-! ### The bit stream -/

theorem streamBit_of_lt (b : SeedBytes) (t : Nat) (ht : t < 128) :
    streamBit b t = (b[t / 8]).getLsbD (7 - t % 8) := by
  simp [streamBit, ht]

theorem streamBit_of_ge (b : SeedBytes) (t : Nat) (ht : 128 ≤ t) : streamBit b t = false := by
  simp [streamBit, Nat.not_lt.2 ht]

/-- Stream bit `t` is bit `127 - t` of S (R70). -/
theorem streamBit_eq_bigEndian (b : SeedBytes) (t : Nat) (ht : t < 128) :
    streamBit b t = (bigEndian b).getLsbD (127 - t) := by
  have hbyte : 15 - (127 - t) / 8 = t / 8 := by omega
  have hbit : (127 - t) % 8 = 7 - t % 8 := by omega
  rw [streamBit_of_lt b t ht, bigEndian_bit b _ (by omega)]
  simp only [hbyte, hbit]

/-- Bit `j` of seed byte `i` is stream bit `8i + 7 - j` (R78). -/
theorem streamBit_seedBytes (s : State) (i : Fin 16) (j : Nat) (hj : j < 8) :
    streamBit (seedBytes s) (8 * i.val + 7 - j) = (seedByte s i).getLsbD j := by
  have hbyte : (8 * i.val + 7 - j) / 8 = i.val := by omega
  have hbit : 7 - (8 * i.val + 7 - j) % 8 = j := by omega
  rw [streamBit_of_lt _ _ (by omega)]
  simp only [hbyte, hbit, seedBytes_getElem]

/-- Concatenation adds the upper part at its weight. -/
theorem toNat_append_eq_add {m n : Nat} (x : BitVec m) (y : BitVec n) :
    (x ++ y).toNat = x.toNat * 2 ^ n + y.toNat := by
  rw [BitVec.toNat_append, ← Nat.shiftLeft_add_eq_or_of_lt y.isLt, Nat.shiftLeft_eq]

/-- S is the sum of its bytes at their weights (R11, R70). -/
theorem toNat_bigEndian (b : SeedBytes) :
    (bigEndian b).toNat = ∑ i : Fin 16, (b[i]).toNat <<< (8 * (15 - i.val)) := by
  simp only [bigEndian, toNat_append_eq_add]
  simp only [Fin.sum_univ_succ, Fin.val_succ, Fin.val_zero, Finset.univ_unique, Fin.default_eq_zero,
    Finset.sum_singleton, Fin.getElem_fin, Nat.reduceAdd, Nat.shiftLeft_eq]
  omega

/-- Settles O10: the stream's definition byte by byte, S read from the top, and S as the sum of its bytes. -/
theorem bitStreamReadsTheSeedBigEndian : Obligations.BitStreamReadsTheSeedBigEndian := by
  refine fun s => ⟨fun t => ⟨?_, streamBit_eq_bigEndian _ _ t.isLt⟩, ?_⟩
  · have hbyte : Fin.ofNat 16 (t.val / 8) = ⟨t.val / 8, by omega⟩ := Fin.ext (Nat.mod_eq_of_lt (by omega))
    rw [streamBit_of_lt _ _ t.isLt, seedBytes_getElem, hbyte]
  · simp only [toNat_bigEndian, Fin.getElem_fin, seedBytes_getElem]

/-! ### The codes of a seed -/

/-- Bit `9 - k` of code `n` is bit `10n + k` of the stream and its two zero bits (R71). -/
theorem encodeSeed_streamBit (b : SeedBytes) (n : Nat) (hn : n < 13) (k : Nat) (hk : k < 10) :
    ((encodeSeed b)[n]).getLsbD (9 - k) = streamBit b (10 * n + k) := by
  rw [encodeSeed_bit b n hn _ (by omega), paddedStream_bit]
  by_cases ht : 10 * n + k < 128
  · have hplace : 10 * (12 - n) + (9 - k) - 2 = 127 - (10 * n + k) := by omega
    have hpad : 2 ≤ 10 * (12 - n) + (9 - k) := by omega
    simp only [streamBit_eq_bigEndian b _ ht, hplace, hpad, decide_true, Bool.true_and]
  · have hpad : ¬ 2 ≤ 10 * (12 - n) + (9 - k) := by omega
    simp only [streamBit_of_ge b _ (Nat.not_lt.1 ht), hpad, decide_false, Bool.false_and]

/-- Code `n` depends on its ten stream bits alone (R78). -/
theorem encodeSeed_getElem_congr (b b' : SeedBytes) (n : Nat) (hn : n < 13)
    (h : ∀ k < 10, streamBit b (10 * n + k) = streamBit b' (10 * n + k)) :
    (encodeSeed b)[n] = (encodeSeed b')[n] := by
  refine BitVec.eq_of_getLsbD_eq fun m hm => ?_
  obtain ⟨k, hk, rfl⟩ : ∃ k < 10, m = 9 - k := ⟨9 - m, by omega, by omega⟩
  rw [encodeSeed_streamBit b n hn k hk, encodeSeed_streamBit b' n hn k hk, h k hk]

/-- A number is a multiple of 4 when its two low bits are zero. -/
theorem toNat_mod_four_eq_zero_iff {w : Nat} (x : BitVec w) :
    x.toNat % 4 = 0 ↔ x.getLsbD 0 = false ∧ x.getLsbD 1 = false := by
  simp only [BitVec.getLsbD, Nat.testBit_eq_decide_div_mod_eq, decide_eq_false_iff_not]
  omega

/-- Code 12 ends in the two zero bits that pad the stream (R72, R73). -/
theorem encodeSeed_twelve_mod_four (b : SeedBytes) : ((encodeSeed b)[12]).toNat % 4 = 0 := by
  rw [toNat_mod_four_eq_zero_iff]
  exact ⟨(encodeSeed_streamBit b 12 (by omega) 9 (by omega)).trans (streamBit_of_ge b _ (by omega)),
    (encodeSeed_streamBit b 12 (by omega) 8 (by omega)).trans (streamBit_of_ge b _ (by omega))⟩

/-! ### What ENCODE leaves in the code buffer -/

section Encode

variable {s t : State} (h : exec .encode s = .next t)
include h

/-- CODEn holds code `n` of the seed, zero extended (R72). -/
theorem code_of_exec_encode (n : Fin 13) : t.code[n] = ((encodeSeed (seedBytes s))[n]).setWidth 32 := by
  rw [(exec_eq_next _ _ _).1 h]
  have hcode : (complete s (commandResult .encode s)).code =
      (applyWrites s (dataCodeWrites (encodeSeed (seedBytes s)))).code := (complete_data_of_none s _ rfl).2
  rw [hcode]
  exact (applyWrites_dataCodeWrites_code s _ (n.castLE (by omega))).trans (dif_pos n.isLt)

theorem toNat_code_of_exec_encode (n : Fin 13) : (t.code[n]).toNat = ((encodeSeed (seedBytes s))[n]).toNat := by
  rw [code_of_exec_encode h, BitVec.toNat_setWidth_of_le (by omega)]

/-- Stream bit `u` is bit `9 - u mod 10` of CODE(u div 10) (R71, R78). -/
theorem code_getLsbD_of_exec_encode (u : Nat) (hu : u < 128) :
    (t.code[u / 10]).getLsbD (9 - u % 10) = streamBit (seedBytes s) u := by
  have hcode := code_of_exec_encode h ⟨u / 10, by omega⟩
  simp only [Fin.getElem_fin] at hcode
  rw [hcode, BitVec.getLsbD_setWidth, encodeSeed_streamBit _ _ (by omega) _ (by omega), Nat.div_add_mod]
  simp only [Bool.and_eq_right_iff_imp, decide_eq_true_eq]
  omega

/-- The codes below 1024 and CODE12 a multiple of 4 (R73). -/
theorem wellFormed_of_exec_encode : (∀ n : Fin 13, (t.code[n]).toNat < 1024) ∧ (t.code[12]).toNat % 4 = 0 := by
  refine ⟨fun n => ?_, ?_⟩
  · rw [toNat_code_of_exec_encode h n]
    exact BitVec.isLt _
  · have hpad := toNat_code_of_exec_encode h 12
    exact (congrArg (· % 4) hpad).trans (encodeSeed_twelve_mod_four _)

/-- Two seeds that agree on the ten stream bits of position `n` get the same CODEn (R78). -/
theorem code_eq_of_streamBit_eq {s' t' : State} (h' : exec .encode s' = .next t') (n : Fin 13)
    (hbits : ∀ k < 10, streamBit (seedBytes s) (10 * n.val + k) = streamBit (seedBytes s') (10 * n.val + k)) :
    t.code[n] = t'.code[n] := by
  rw [code_of_exec_encode h, code_of_exec_encode h']
  exact congrArg _ (encodeSeed_getElem_congr _ _ _ n.isLt hbits)

/-- A code that changes with seed byte `i` alone holds the first or the last stream bit of that byte (R78). -/
theorem position_of_code_ne {s' t' : State} (h' : exec .encode s' = .next t') (i : Fin 16)
    (hbytes : ∀ m : Fin 16, m ≠ i → seedByte s m = seedByte s' m) (n : Fin 13) (hne : t.code[n] ≠ t'.code[n]) :
    n.val = 8 * i.val / 10 ∨ n.val = (8 * i.val + 7) / 10 := by
  by_contra hout
  refine hne (code_eq_of_streamBit_eq h h' n fun k hk => ?_)
  by_cases ht : 10 * n.val + k < 128
  · have hother : (⟨(10 * n.val + k) / 8, by omega⟩ : Fin 16) ≠ i := fun e => by
      have := congrArg Fin.val e
      simp only at this
      omega
    simp only [streamBit_of_lt _ _ ht, seedBytes_getElem, hbytes _ hother]
  · rw [streamBit_of_ge _ _ (Nat.not_lt.1 ht), streamBit_of_ge _ _ (Nat.not_lt.1 ht)]

/-- A change of one seed byte changes at most two codes (R78). -/
theorem length_changed_codes_le_two {s' t' : State} (h' : exec .encode s' = .next t') (i : Fin 16)
    (hbytes : ∀ m : Fin 16, m ≠ i → seedByte s m = seedByte s' m) :
    ((List.finRange 13).filter fun n => t.code[n] != t'.code[n]).length ≤ 2 := by
  have hsub : ((List.finRange 13).filter fun n => t.code[n] != t'.code[n]) ⊆
      [⟨8 * i.val / 10, by omega⟩, ⟨(8 * i.val + 7) / 10, by omega⟩] := fun n hn => by
    have hne : t.code[n] ≠ t'.code[n] := by simpa using List.of_mem_filter hn
    rw [List.mem_pair]
    exact (position_of_code_ne h h' i hbytes n hne).imp Fin.ext Fin.ext
  exact (List.subperm_of_subset ((List.nodup_finRange 13).filter _) hsub).length_le

end Encode

/-- Settles O11: ten bits bound each code, and code 12 ends in the two padding bits. -/
theorem encodeGivesAWellFormedTuple : Obligations.EncodeGivesAWellFormedTuple :=
  fun _ _ h => wellFormed_of_exec_encode h

/-- Settles O12: a seed bit is a stream bit, a stream bit has one place among the codes, and a byte's eight stream bits
reach from one position into at most the next. -/
theorem seedBitsLandInTheirCodes : Obligations.SeedBitsLandInTheirCodes := by
  intro s t h
  have hplace : ∀ (i : Fin 16) (j : Fin 8), (t.code[(8 * i.val + 7 - j.val) / 10]).getLsbD
      (9 - (8 * i.val + 7 - j.val) % 10) = (seedByte s i).getLsbD j.val := fun i j =>
    (code_getLsbD_of_exec_encode h _ (by omega)).trans (streamBit_seedBytes s i j.val j.isLt)
  refine ⟨fun i j => ?_, fun j => ?_, fun s' t' h' => ⟨fun n hbits => ?_, fun i hbytes => ?_⟩⟩
  · have hpos : (Fin.ofNat 15 ((8 * i.val + 7 - j.val) / 10)).val = (8 * i.val + 7 - j.val) / 10 :=
      Nat.mod_eq_of_lt (by omega)
    simp only [codeReg, Fin.getElem_fin, hpos, hplace i j]
  · have hpos : (8 * (15 : Fin 16).val + 7 - j.val) / 10 = 12 := by omega
    have hbit : 9 - (8 * (15 : Fin 16).val + 7 - j.val) % 10 = 2 + j.val := by omega
    have hlast := hplace 15 j
    simp only [hpos, hbit] at hlast
    exact hlast
  · exact code_eq_of_streamBit_eq h h' n fun k hk => hbits ⟨k, hk⟩
  · exact length_changed_codes_le_two h h' i hbytes

/-! ### Codes and seeds are inverse to each other -/

theorem toBytesBE_bigEndian (b : SeedBytes) : toBytesBE (bigEndian b) = b := by
  refine Vector.ext fun i hi => BitVec.eq_of_getLsbD_eq fun j hj => ?_
  have hbyte : 15 - (8 * (15 - i) + j) / 8 = i := by omega
  have hbit : (8 * (15 - i) + j) % 8 = j := by omega
  rw [toBytesBE_bit _ i hi j hj, bigEndian_bit b _ (by omega)]
  simp only [hbyte, hbit]

theorem bigEndian_toBytesBE (S : BitVec 128) : bigEndian (toBytesBE S) = S := by
  refine BitVec.eq_of_getLsbD_eq fun t ht => ?_
  have hbit : 8 * (15 - (15 - t / 8)) + t % 8 = t := by omega
  rw [bigEndian_bit _ t ht, toBytesBE_bit _ _ (by omega) _ (by omega), hbit]

/-- Cutting the padded stream into codes and joining the codes are inverse (R71, R74). -/
theorem encodeSeed_eq_iff (b : SeedBytes) (cs : DataCodes) : encodeSeed b = cs ↔ paddedStream b = joinCodes cs := by
  constructor
  · rintro rfl
    refine BitVec.eq_of_getLsbD_eq fun t ht => ?_
    have hbit : 10 * (12 - (12 - t / 10)) + t % 10 = t := by omega
    rw [joinCodes_bit _ t ht, encodeSeed_bit b _ (by omega) _ (by omega), hbit]
  · intro hjoin
    refine Vector.ext fun n hn => BitVec.eq_of_getLsbD_eq fun m hm => ?_
    have hcode : 12 - (10 * (12 - n) + m) / 10 = n := by omega
    have hbit : (10 * (12 - n) + m) % 10 = m := by omega
    rw [encodeSeed_bit b n hn m hm, hjoin, joinCodes_bit cs _ (by omega)]
    simp only [hcode, hbit]

/-- `DEC(ENC(b)) = b` (R76). -/
theorem decodeCodes_encodeSeed (b : SeedBytes) : decodeCodes (encodeSeed b) = b := by
  have hS : (paddedStream b).extractLsb' 2 128 = bigEndian b := by
    refine BitVec.eq_of_getLsbD_eq fun t ht => ?_
    simp [paddedStream_bit, ht]
  rw [decodeCodes, ← (encodeSeed_eq_iff b _).1 rfl, hS, toBytesBE_bigEndian]

/-- `ENC(DEC(cs)) = cs` when the dropped bits of code 12 are zero (R76). -/
theorem encodeSeed_decodeCodes (cs : DataCodes) (hpad : (cs[12]).toNat % 4 = 0) :
    encodeSeed (decodeCodes cs) = cs := by
  obtain ⟨h0, h1⟩ := (toNat_mod_four_eq_zero_iff _).1 hpad
  refine (encodeSeed_eq_iff _ _).2 (BitVec.eq_of_getLsbD_eq fun t ht => ?_)
  rw [paddedStream_bit, decodeCodes, bigEndian_toBytesBE, BitVec.getLsbD_extractLsb']
  obtain rfl | rfl | ht2 : t = 0 ∨ t = 1 ∨ 2 ≤ t := by omega
  · exact h0.symm.trans (joinCodes_bit cs 0 ht).symm
  · exact h1.symm.trans (joinCodes_bit cs 1 ht).symm
  · have hin : t - 2 < 128 := by omega
    simp only [ht2, hin, decide_true, Bool.true_and, Nat.add_sub_cancel' ht2]

/-! ### The round trips -/

/-- On a well-formed 13-tuple DECODE succeeds with the seed of the codes (R74). -/
theorem decodeResult_of_wellFormed (s : State) (hrange : ∀ n : Fin 13, (s.code[n]).toNat < 1024)
    (hpad : (s.code[12]).toNat % 4 = 0) :
    decodeResult s = succeed (seedWrites (packSeed (decodeCodes (dataCodes s)))) := by
  have hnone : firstOutOfRange 13 s = none :=
    (firstOutOfRange_eq_none 13 s).2 fun n hn => hrange ⟨n.val, hn⟩
  have hclear : padBitsSet s = false := by
    simp only [padBitsSet, bne_eq_false_iff_eq]
    exact hpad
  simp [decodeResult, hnone, hclear]

/-- DECODE then completes with NONE and writes that seed (R61, R74). -/
theorem exec_decode_of_wellFormed (s : State) (hrange : ∀ n : Fin 13, (s.code[n]).toNat < 1024)
    (hpad : (s.code[12]).toNat % 4 = 0) :
    ∃ t, exec .decode s = .next t ∧ t.status.err = .none ∧ t.seed = packSeed (decodeCodes (dataCodes s)) := by
  refine ⟨_, exec_eq_complete .decode s, ?_⟩
  rw [commandResult, decodeResult_of_wellFormed s hrange hpad, complete_succeed, applyWrites_seedWrites]
  exact ⟨rfl, rfl⟩

/-- The data codes of an ENCODE are those of the seed it read (R72). -/
theorem dataCodes_of_exec_encode {s t : State} (h : exec .encode s = .next t) :
    dataCodes t = encodeSeed (seedBytes s) := by
  refine Vector.ext fun n hn => ?_
  have hcode := code_of_exec_encode h ⟨n, hn⟩
  simp only [Fin.getElem_fin] at hcode
  rw [dataCodes_getElem, hcode, BitVec.setWidth_setWidth_of_le _ (by omega), BitVec.setWidth_eq]

/-- A code register below 1024 is its ten-bit code, zero extended (R12). -/
theorem setWidth_setWidth_of_isCode (v : Word) (hv : v.toNat < 1024) : (v.setWidth 10).setWidth 32 = v := by
  refine BitVec.eq_of_toNat_eq ?_
  rw [BitVec.toNat_setWidth_of_le (by omega), BitVec.toNat_setWidth, Nat.mod_eq_of_lt hv]

/-- Settles O23: ENCODE's codes are well formed, so DECODE succeeds and its seed is `DEC(ENC(s))`; and ENCODE of
`DEC(c)` gives back a well-formed c. -/
theorem encodeDecodeRoundTrip : Obligations.EncodeDecodeRoundTrip := by
  refine ⟨fun s => ?_, fun s hrange hpad => ?_⟩
  · obtain ⟨t, ht⟩ : ∃ t, exec .encode s = .next t := ⟨_, exec_eq_complete .encode s⟩
    obtain ⟨hrange, hpad⟩ := wellFormed_of_exec_encode ht
    refine ⟨t, ht, fun v hcodes => ?_⟩
    obtain ⟨u, hu, herr, hseed⟩ := exec_decode_of_wellFormed v (fun n => hcodes n ▸ hrange n)
      ((congrArg (·.toNat % 4) (hcodes 12)).trans hpad)
    refine ⟨u, hu, herr, ?_⟩
    calc
      u.seed = packSeed (decodeCodes (dataCodes t)) := by rw [hseed, dataCodes_congr v t hcodes]
      _ = packSeed (seedBytes s) := by rw [dataCodes_of_exec_encode ht, decodeCodes_encodeSeed]
      _ = s.seed := packSeed_seedBytes s
  · obtain ⟨t, ht, herr, hseed⟩ := exec_decode_of_wellFormed s hrange hpad
    refine ⟨t, ht, herr, fun v hv => ⟨_, exec_eq_complete .encode v, fun n => ?_⟩⟩
    have hpad10 : ((dataCodes s)[12]).toNat % 4 = 0 := by
      rw [dataCodes_getElem, BitVec.toNat_setWidth]
      omega
    calc
      _ = ((encodeSeed (seedBytes v))[n]).setWidth 32 := code_of_exec_encode (exec_eq_complete .encode v) n
      _ = ((dataCodes s)[n]).setWidth 32 := by
        rw [seedBytes_of_packSeed v _ (hv.trans hseed), encodeSeed_decodeCodes _ hpad10]
      _ = ((s.code[n]).setWidth 10).setWidth 32 := congrArg _ (dataCodes_getElem s n n.isLt)
      _ = s.code[n] := setWidth_setWidth_of_isCode _ (hrange n)

end Sys2Proof.Machine
end

section
/-! PROOFS. The checksum words of a digest (41_checksum.md section 1), and what CHECKSUM leaves (section 2). -/

namespace Sys2Proof.Machine

/-! ### The checksum words of a digest -/

theorem digestBit_of_lt (d : Vector Byte Config.digestLen) (t : Nat) (ht : t < 24) :
    digestBit d t = (digestByte d ⟨t / 8, by omega⟩).getLsbD (7 - t % 8) :=
  dif_pos ht

/-- The first word is byte 0 and the top two bits of byte 1, first bit most significant (R81). -/
theorem checksumWord13_bit (d : Vector Byte Config.digestLen) (k : Nat) (hk : k < 10) :
    (checksumWord13 d).getLsbD (9 - k) = digestBit d k := by
  simp only [checksumWord13, BitVec.getLsbD_or, BitVec.getLsbD_shiftLeft, BitVec.getLsbD_ushiftRight,
    BitVec.getLsbD_setWidth, digestBit_of_lt d k (by omega)]
  obtain ⟨hbyte, hk8⟩ | ⟨hbyte, hk8⟩ : k / 8 = 0 ∧ k < 8 ∨ k / 8 = 1 ∧ 8 ≤ k := by omega
  · have hhigh : (digestByte d 1).getLsbD (6 + (9 - k)) = false := BitVec.getLsbD_of_ge _ _ (by omega)
    have hbit : 9 - k - 2 = 7 - k % 8 := by omega
    have hshift : ¬ 9 - k < 2 := by omega
    have hwidth : 9 - k < 10 ∧ 7 - k % 8 < 10 := by omega
    simp [hbyte, hhigh, hbit, hshift, hwidth]
  · have hbit : 6 + (9 - k) = 7 - k % 8 := by omega
    have hshift : 9 - k < 2 := by omega
    have hwidth : 7 - k % 8 < 10 := by omega
    simp [hbyte, hbit, hshift, hwidth]

/-- The second word is the low six bits of byte 1 and the high half of byte 2, first bit most significant (R81). -/
theorem checksumWord14_bit (d : Vector Byte Config.digestLen) (k : Nat) (hk : k < 10) :
    (checksumWord14 d).getLsbD (9 - k) = digestBit d (10 + k) := by
  simp only [checksumWord14, BitVec.getLsbD_or, BitVec.getLsbD_and, BitVec.getLsbD_shiftLeft,
    BitVec.getLsbD_ushiftRight, BitVec.getLsbD_setWidth, digestBit_of_lt d (10 + k) (by omega)]
  obtain ⟨hbyte, hk6⟩ | ⟨hbyte, hk6⟩ : (10 + k) / 8 = 1 ∧ k < 6 ∨ (10 + k) / 8 = 2 ∧ 6 ≤ k := by omega
  · have hmask : ∀ j < 6, (0x3F#8).getLsbD j = true := by decide
    have hhigh : (digestByte d 2).getLsbD (4 + (9 - k)) = false := BitVec.getLsbD_of_ge _ _ (by omega)
    have hbit : 9 - k - 4 = 7 - (10 + k) % 8 := by omega
    have hshift : ¬ 9 - k < 4 := by omega
    have hwidth : 9 - k < 10 ∧ 7 - (10 + k) % 8 < 10 := by omega
    simp [hbyte, hmask _ (by omega : 7 - (10 + k) % 8 < 6), hhigh, hbit, hshift, hwidth]
  · have hbit : 4 + (9 - k) = 7 - (10 + k) % 8 := by omega
    have hshift : 9 - k < 4 := by omega
    have hwidth : 7 - (10 + k) % 8 < 10 := by omega
    simp [hbyte, hbit, hshift, hwidth]

/-- Two ten-bit words are equal when their bits are, counted from the most significant. -/
theorem wordCode_ext {v w : WordCode} (h : ∀ k < 10, v.getLsbD (9 - k) = w.getLsbD (9 - k)) : v = w := by
  refine BitVec.eq_of_getMsbD_eq fun k hk => ?_
  simpa only [BitVec.getMsbD_eq_getLsbD, hk, decide_true, Bool.true_and] using h k hk

/-- Only the first 20 bits of a digest are used (R81). -/
theorem checksumWords_congr_of_digestBit (d d' : Vector Byte Config.digestLen)
    (h : ∀ k : Fin 20, digestBit d k.val = digestBit d' k.val) :
    checksumWord13 d = checksumWord13 d' ∧ checksumWord14 d = checksumWord14 d' := by
  refine ⟨wordCode_ext fun k hk => ?_, wordCode_ext fun k hk => ?_⟩
  · rw [checksumWord13_bit d k hk, checksumWord13_bit d' k hk, h ⟨k, by omega⟩]
  · rw [checksumWord14_bit d k hk, checksumWord14_bit d' k hk, h ⟨10 + k, by omega⟩]

/-- A shift that stays within ten bits loses nothing, so R81's first formula is one of numbers. -/
theorem toNat_checksumWord13 (d : Vector Byte Config.digestLen) :
    (checksumWord13 d).toNat = ((digestByte d 0).toNat <<< 2) ||| ((digestByte d 1).toNat >>> 6) := by
  have hfits : (digestByte d 0).toNat <<< 2 < 1024 := by rw [Nat.shiftLeft_eq]; omega
  simp only [checksumWord13, BitVec.toNat_or, BitVec.toNat_shiftLeft, BitVec.toNat_ushiftRight,
    BitVec.toNat_setWidth_of_le (show 8 ≤ 10 by decide)]
  rw [Nat.mod_eq_of_lt hfits]

/-- The mask keeps the shift within ten bits, so R81's second formula is one of numbers too. -/
theorem toNat_checksumWord14 (d : Vector Byte Config.digestLen) :
    (checksumWord14 d).toNat =
      (((digestByte d 1).toNat &&& 0x3F) <<< 4) ||| ((digestByte d 2).toNat >>> 4) := by
  have hfits : ((digestByte d 1).toNat &&& 0x3F) <<< 4 < 1024 := by
    have hmask : (digestByte d 1).toNat &&& 0x3F ≤ 0x3F := Nat.and_le_right
    rw [Nat.shiftLeft_eq]; omega
  simp only [checksumWord14, BitVec.toNat_or, BitVec.toNat_shiftLeft, BitVec.toNat_ushiftRight,
    BitVec.toNat_setWidth_of_le (show 8 ≤ 10 by decide), BitVec.toNat_and, BitVec.toNat_ofNat]
  rw [Nat.mod_eq_of_lt hfits]

/-! ### What CHECKSUM leaves -/

section Checksum

variable {s t : State} (h : exec .checksum s = .next t)
include h

theorem seed_of_exec_checksum : t.seed = s.seed := by
  rw [(exec_eq_next _ _ _).1 h]
  exact (complete_data_of_none s _ rfl).1

/-- The code buffer gets the two words of the seed and nothing else (R82). -/
theorem code_of_exec_checksum : t.code = (s.code.set 13 ((checksumWords (seedBytes s)).1.setWidth 32)).set 14
    ((checksumWords (seedBytes s)).2.setWidth 32) := by
  rw [(exec_eq_next _ _ _).1 h]
  exact (complete_data_of_none s _ rfl).2

theorem code_of_exec_checksum_of_lt (n : Fin 13) : t.code[n] = s.code[n] := by
  have hn := n.isLt
  simp only [code_of_exec_checksum h, Fin.getElem_fin]
  rw [Vector.getElem_set_ne _ _ (by omega), Vector.getElem_set_ne _ _ (by omega)]

theorem code13_of_exec_checksum : t.code[13] = (checksumWord13 (Config.digest (seedBytes s))).setWidth 32 := by
  simp [code_of_exec_checksum h, checksumWords]

theorem code14_of_exec_checksum : t.code[14] = (checksumWord14 (Config.digest (seedBytes s))).setWidth 32 := by
  simp [code_of_exec_checksum h, checksumWords]

end Checksum

/-- Settles O17: CODE13 and CODE14 are the two words zero extended, so their values and their bits are the words'; and
each bit of a word is one of the first 20 of the digest. -/
theorem checksumWritesTheFirstTwentyDigestBits : Obligations.ChecksumWritesTheFirstTwentyDigestBits := by
  refine ⟨fun s => ?_, checksumWords_congr_of_digestBit⟩
  obtain ⟨t, ht⟩ : ∃ t, exec .checksum s = .next t := ⟨_, exec_eq_complete .checksum s⟩
  have h13 := code13_of_exec_checksum ht
  have h14 := code14_of_exec_checksum ht
  refine ⟨t, ht, ?_, seed_of_exec_checksum ht, code_of_exec_checksum_of_lt ht, ?_, ?_, fun k => ⟨?_, ?_⟩⟩
  · rw [(exec_eq_next _ _ _).1 ht]
    exact completedAs_complete s (commandResult .checksum s)
  · rw [h13, BitVec.toNat_setWidth_of_le (by decide), toNat_checksumWord13]
  · rw [h14, BitVec.toNat_setWidth_of_le (by decide), toNat_checksumWord14]
  · have hwidth : 9 - k.val < 32 := by omega
    rw [h13, BitVec.getLsbD_setWidth, checksumWord13_bit _ _ k.isLt, decide_eq_true hwidth, Bool.true_and]
  · have hwidth : 9 - k.val < 32 := by omega
    rw [h14, BitVec.getLsbD_setWidth, checksumWord14_bit _ _ k.isLt, decide_eq_true hwidth, Bool.true_and]

/-- Settles O18: CHECKSUM's operands are the seed, and each word is a function of the seed bytes. -/
theorem checksumDependsOnTheSeedAlone : Obligations.ChecksumDependsOnTheSeedAlone := by
  intro s s' hseed
  obtain ⟨t, ht⟩ : ∃ t, exec .checksum s = .next t := ⟨_, exec_eq_complete .checksum s⟩
  obtain ⟨t', ht'⟩ : ∃ t', exec .checksum s' = .next t' := ⟨_, exec_eq_complete .checksum s'⟩
  have hbytes := seedBytes_congr s s' hseed
  refine ⟨t, t', ht, ht', ?_, ?_⟩
  · rw [code13_of_exec_checksum ht, code13_of_exec_checksum ht', hbytes]
  · rw [code14_of_exec_checksum ht, code14_of_exec_checksum ht', hbytes]

end Sys2Proof.Machine
end

section
/-! PROOFS. The composite commands (42_phrase_validate.md): PHRASE is ENCODE then CHECKSUM, VALIDATE accepts exactly the
valid phrases, and the two in a row give back the seed. -/

namespace Sys2Proof.Machine

/-! ### Valid phrases -/

/-- The condition of R89 on the code buffer: every code in range, the padding bits of CODE12 zero, and CODE13 and CODE14
the checksum words of the seed that CODE0 to CODE12 decode to. -/
def IsValidPhrase (s : State) : Prop :=
  (∀ n : Fin 15, (codeReg s n).toNat < 1024) ∧ (s.code[12]).toNat % 4 = 0 ∧
    s.code[13] = (checksumWords (decodeCodes (dataCodes s))).1.setWidth 32 ∧
    s.code[14] = (checksumWords (decodeCodes (dataCodes s))).2.setWidth 32

theorem dataCodes_congr_of_code {s t : State} (h : s.code = t.code) : dataCodes s = dataCodes t :=
  dataCodes_congr s t fun _ => by rw [h]

/-- Whether a phrase is valid is a matter of the code buffer alone (R89). -/
theorem IsValidPhrase.of_code_eq {s t : State} (hs : IsValidPhrase s) (h : t.code = s.code) : IsValidPhrase t := by
  simpa only [IsValidPhrase, codeReg, h, dataCodes_congr_of_code h] using hs

/-! ### The checks and the results of VALIDATE -/

theorem firstOutOfRange_fifteen_eq_none (s : State) :
    firstOutOfRange 15 s = none ↔ ∀ n : Fin 15, (codeReg s n).toNat < 1024 :=
  (firstOutOfRange_eq_none 15 s).trans ⟨fun h n => h n n.isLt, fun h n _ => h n⟩

theorem padBitsSet_eq_false (s : State) : padBitsSet s = false ↔ (s.code[12]).toNat % 4 = 0 :=
  bne_eq_false_iff_eq

theorem checksumMatches_eq_true (s : State) (w : WordCode × WordCode) :
    checksumMatches s w = true ↔ s.code[13] = w.1.setWidth 32 ∧ s.code[14] = w.2.setWidth 32 := by
  rw [checksumMatches, Bool.and_eq_true, beq_iff_eq, beq_iff_eq]
  exact Iff.rfl

/-- A valid phrase is one that passes VALIDATE's three checks (R88, R89). -/
theorem isValidPhrase_iff_checks (s : State) :
    IsValidPhrase s ↔ firstOutOfRange 15 s = none ∧ padBitsSet s = false ∧
      checksumMatches s (checksumWords (decodeCodes (dataCodes s))) = true := by
  rw [firstOutOfRange_fifteen_eq_none, padBitsSet_eq_false, checksumMatches_eq_true, IsValidPhrase]

/-- On a valid phrase VALIDATE succeeds with the seed of the codes (R88). -/
theorem validateResult_of_isValidPhrase {s : State} (h : IsValidPhrase s) :
    validateResult s = succeed (seedWrites (packSeed (decodeCodes (dataCodes s)))) := by
  obtain ⟨hrange, hpad, hmatch⟩ := (isValidPhrase_iff_checks s).1 h
  simp [validateResult, hrange, hpad, hmatch]

/-- Each result other than the success carries a failure code, so NONE says that every check passed (R89). -/
theorem validateResult_err_eq_none_iff (s : State) : (validateResult s).err = .none ↔ IsValidPhrase s := by
  refine ⟨fun herr => (isValidPhrase_iff_checks s).2 ?_, fun h => by rw [validateResult_of_isValidPhrase h]; rfl⟩
  obtain ⟨n, -, hr⟩ | ⟨-, -, hr⟩ | ⟨-, -, -, hr⟩ | ⟨hrange, hpad, hmatch, -⟩ := validateResult_cases s
  case inr.inr.inr => exact ⟨hrange, hpad, hmatch⟩
  all_goals
    rw [hr] at herr
    cases herr

section Validate

variable {s t : State} (h : exec .validate s = .next t)
include h

theorem status_of_exec_validate :
    t.status.err = (validateResult s).err ∧ t.status.pos = (validateResult s).pos := by
  rw [(exec_eq_next _ _ _).1 h, complete_status]
  exact ⟨rfl, rfl⟩

theorem err_of_exec_validate_eq_none_iff : t.status.err = .none ↔ IsValidPhrase s := by
  rw [(status_of_exec_validate h).1, validateResult_err_eq_none_iff]

/-- On a valid phrase SEED gets the decoded seed, whatever it held (R88). -/
theorem seed_of_exec_validate (hs : IsValidPhrase s) : t.seed = packSeed (decodeCodes (dataCodes s)) := by
  rw [(exec_eq_next _ _ _).1 h, commandResult, validateResult_of_isValidPhrase hs, complete_succeed,
    applyWrites_seedWrites]

end Validate

/-- Settles O20: NONE is the result exactly on valid phrases, and the result and the seed written are functions of the
code buffer. -/
theorem validateAcceptsExactlyValidPhrases : Obligations.ValidateAcceptsExactlyValidPhrases := by
  intro s
  obtain ⟨t, ht⟩ : ∃ t, exec .validate s = .next t := ⟨_, exec_eq_complete .validate s⟩
  refine ⟨t, ht, err_of_exec_validate_eq_none_iff ht, fun s' hcode => ?_⟩
  obtain ⟨t', ht'⟩ : ∃ t', exec .validate s' = .next t' := ⟨_, exec_eq_complete .validate s'⟩
  have hresult : validateResult s' = validateResult s := commandResult_congr .validate s' s hcode
  obtain ⟨herr, hpos⟩ := status_of_exec_validate ht
  obtain ⟨herr', hpos'⟩ := status_of_exec_validate ht'
  refine ⟨t', ht', by rw [herr, herr', hresult], by rw [hpos, hpos', hresult], fun hnone => ?_⟩
  have hs : IsValidPhrase s := (err_of_exec_validate_eq_none_iff ht).1 hnone
  rw [seed_of_exec_validate ht hs, seed_of_exec_validate ht' (hs.of_code_eq hcode), dataCodes_congr_of_code hcode]

/-! ### What PHRASE leaves -/

theorem seed_of_exec_encode {s t : State} (h : exec .encode s = .next t) : t.seed = s.seed := by
  rw [(exec_eq_next _ _ _).1 h]
  exact (complete_data_of_none s _ rfl).1.trans (applyWrites_dataCodeWrites_seed s _)

/-- CHECKSUM leaves CODE0 to CODE12, so it leaves the codes that decode to the seed (R82). -/
theorem dataCodes_of_exec_checksum {s t : State} (h : exec .checksum s = .next t) : dataCodes t = dataCodes s :=
  dataCodes_congr t s (code_of_exec_checksum_of_lt h)

/-- A zero-extended word code is in range (R12, R104). -/
theorem toNat_setWidth_wordCode_lt (w : WordCode) : (w.setWidth 32).toNat < 1024 := by
  rw [BitVec.toNat_setWidth_of_le (by omega)]
  exact w.isLt

section Phrase

variable {s t : State} (h : exec .phrase s = .next t)
include h

/-- PHRASE applies ENCODE's writes, then CHECKSUM's words over them (R86). -/
theorem data_of_exec_phrase : t.seed = s.seed ∧
    t.code = ((applyWrites s (dataCodeWrites (encodeSeed (seedBytes s)))).code.set 13
      ((checksumWords (seedBytes s)).1.setWidth 32)).set 14 ((checksumWords (seedBytes s)).2.setWidth 32) := by
  rw [(exec_eq_next _ _ _).1 h, commandResult, phraseResult, complete_succeed, applyWrites_append,
    applyWrites_checksumWrites]
  exact ⟨by simp only [applyWrites_dataCodeWrites_seed], rfl⟩

/-- The fifteen values are those of ENCODE followed by CHECKSUM: ENCODE leaves the seed that CHECKSUM reads (R87). -/
theorem code_of_exec_phrase {e u : State} (he : exec .encode s = .next e) (hu : exec .checksum e = .next u) :
    t.code = u.code := by
  have hcode : e.code = (applyWrites s (dataCodeWrites (encodeSeed (seedBytes s)))).code := by
    rw [(exec_eq_next _ _ _).1 he]
    exact (complete_data_of_none s _ rfl).2
  rw [(data_of_exec_phrase h).2, code_of_exec_checksum hu, hcode, seedBytes_congr e s (seed_of_exec_encode he)]

/-- CODE0 to CODE12 decode to the seed that PHRASE read (R76, R86). -/
theorem decodeCodes_of_exec_phrase : decodeCodes (dataCodes t) = seedBytes s := by
  have he := exec_eq_complete .encode s
  have hu := exec_eq_complete .checksum (complete s (commandResult .encode s))
  rw [dataCodes_congr_of_code (code_of_exec_phrase h he hu), dataCodes_of_exec_checksum hu,
    dataCodes_of_exec_encode he, decodeCodes_encodeSeed]

theorem checksum_code_of_exec_phrase : t.code[13] = (checksumWords (seedBytes s)).1.setWidth 32 ∧
    t.code[14] = (checksumWords (seedBytes s)).2.setWidth 32 := by
  simp [(data_of_exec_phrase h).2]

/-- PHRASE's result is a valid phrase: ENCODE's codes are well formed, and the words are the checksum of the seed that
they decode to (R87). -/
theorem isValidPhrase_of_exec_phrase : IsValidPhrase t := by
  have he := exec_eq_complete .encode s
  have hu := exec_eq_complete .checksum (complete s (commandResult .encode s))
  have hdata : ∀ n : Fin 13, t.code[n] = (complete s (commandResult .encode s)).code[n] := fun n => by
    rw [code_of_exec_phrase h he hu, code_of_exec_checksum_of_lt hu n]
  obtain ⟨hrange, hpad⟩ := wellFormed_of_exec_encode he
  obtain ⟨h13, h14⟩ := checksum_code_of_exec_phrase h
  rw [IsValidPhrase, decodeCodes_of_exec_phrase h]
  refine ⟨fun n => ?_, (congrArg (·.toNat % 4) (hdata 12)).trans hpad, h13, h14⟩
  obtain hn | rfl | rfl : n.val < 13 ∨ n = 13 ∨ n = 14 := by omega
  · exact (congrArg BitVec.toNat (hdata ⟨n.val, hn⟩)).trans_lt (hrange ⟨n.val, hn⟩)
  · exact (congrArg BitVec.toNat h13).trans_lt (toNat_setWidth_wordCode_lt _)
  · exact (congrArg BitVec.toNat h14).trans_lt (toNat_setWidth_wordCode_lt _)

end Phrase

/-- Settles O19: PHRASE's writes are ENCODE's, then CHECKSUM's of the same seed, and they form a valid phrase. -/
theorem phraseIsEncodeThenChecksum : Obligations.PhraseIsEncodeThenChecksum := by
  intro s
  have hphrase := exec_eq_complete .phrase s
  have hencode := exec_eq_complete .encode s
  have hchecksum := exec_eq_complete .checksum (complete s (commandResult .encode s))
  obtain ⟨-, hpad, h13, h14⟩ := isValidPhrase_of_exec_phrase hphrase
  exact ⟨_, _, _, hphrase, hencode, hchecksum, code_of_exec_phrase hphrase hencode hchecksum,
    completedAs_complete s (commandResult .phrase s), (data_of_exec_phrase hphrase).1, hpad, h13, h14⟩

/-- Settles O25: PHRASE leaves a valid phrase, so VALIDATE accepts it, and the seed it writes is `DEC(ENC(s))`. -/
theorem phraseThenValidateKeepsTheSeed : Obligations.PhraseThenValidateKeepsTheSeed := by
  intro s
  obtain ⟨t, ht⟩ : ∃ t, exec .phrase s = .next t := ⟨_, exec_eq_complete .phrase s⟩
  refine ⟨t, ht, fun v hcode => ?_⟩
  obtain ⟨u, hu⟩ : ∃ u, exec .validate v = .next u := ⟨_, exec_eq_complete .validate v⟩
  have hv : IsValidPhrase v := (isValidPhrase_of_exec_phrase ht).of_code_eq hcode
  refine ⟨u, hu, (err_of_exec_validate_eq_none_iff hu).2 hv, ?_⟩
  calc
    u.seed = packSeed (decodeCodes (dataCodes v)) := seed_of_exec_validate hu hv
    _ = packSeed (seedBytes s) := by rw [dataCodes_congr_of_code hcode, decodeCodes_of_exec_phrase ht]
    _ = s.seed := packSeed_seedBytes s

end Sys2Proof.Machine
end

section
/-! PROOFS. The control commands (43_control.md): what NOP leaves, and that it alone writes nothing. -/

namespace Sys2Proof.Machine

/-- NOP's next state: its completion has no writes to apply, so STATUS alone changes (R95, R96). -/
theorem exec_nop_eq (s : State) :
    exec .nop s = .next { s with status := s.status.completed .none 0xF#4 } := by
  rw [exec_eq_complete, commandResult, complete_succeed, applyWrites_nil]

/-- Every command but NOP may write some register (R62). -/
theorem exists_writeSet_of_ne_nop (i : Instr) (h : i ≠ .nop) : ∃ r, writeSet i r = true := by
  cases i with
  | nop => exact absurd rfl h
  | encode => exact ⟨.code 0, (writeSet_encode_iff _).2 ⟨0, Nat.zero_le _, rfl⟩⟩
  | decode => exact ⟨.seed 0, (writeSet_decode_iff _).2 ⟨0, rfl⟩⟩
  | checksum => exact ⟨.code 13, (writeSet_checksum_iff _).2 (.inl rfl)⟩
  | phrase => exact ⟨.code 0, (writeSet_phrase_iff _).2 ⟨0, rfl⟩⟩
  | validate => exact ⟨.seed 0, (writeSet_validate_iff _).2 ⟨0, rfl⟩⟩

/-- Settles O8: NOP completes with no writes, and each other command has a register in its write set. -/
theorem nopCompletesAndWritesNothing : Obligations.NopCompletesAndWritesNothing := by
  refine ⟨exec_nop_eq, fun i hempty => ?_⟩
  by_contra hne
  obtain ⟨r, hr⟩ := exists_writeSet_of_ne_nop i hne
  exact Bool.false_ne_true ((hempty r).symm.trans hr)

end Sys2Proof.Machine
end

section
/-! PROOFS. The failures of DECODE and VALIDATE (60_exceptions.md): RANGE and INVALID_ENCODING, and that nothing is
written on either. -/

namespace Sys2Proof.Machine

/-! ### A failing completion -/

/-- A command whose rule fails completes with that failure and leaves SEED and CODE (R61, R75). -/
theorem exec_of_commandResult_eq_failWith {i : Instr} {s : State} {err : ResultCode} {pos : BitVec 4}
    (h : commandResult i s = failWith err pos) (herr : err ≠ .none) :
    ∃ t, exec i s = .next t ∧ completedAs s t err pos ∧ dataUnchanged s t := by
  refine ⟨_, exec_eq_complete i s, ?_⟩
  rw [h]
  exact ⟨completedAs_complete s (failWith err pos), complete_data_of_err s (failWith err pos) herr⟩

/-! ### The RANGE check -/

theorem decodeResult_of_firstOutOfRange {s : State} {n : Fin 15} (h : firstOutOfRange 13 s = some n) :
    decodeResult s = failWith .range (BitVec.ofNat 4 n.val) := by
  simp only [decodeResult, h]

theorem validateResult_of_firstOutOfRange {s : State} {n : Fin 15} (h : firstOutOfRange 15 s = some n) :
    validateResult s = failWith .range (BitVec.ofNat 4 n.val) := by
  simp only [validateResult, h]

/-- A write to a CODE register of an idle block stores the whole value, in range or not (R35, R104). -/
theorem codeReg_writeReg_of_idle (s : State) (n : Fin 15) (v : Word) (h : s.status.busy = false) :
    codeReg (writeReg s (.code n) v) n = v := by
  simp [writeReg, h, codeReg]

/-- Settles O15: the RANGE check of each command finds the lowest position that holds 1024 or more, and its failure is
the command's result. -/
theorem rangeIsReportedAtTheLowestPosition : Obligations.RangeIsReportedAtTheLowestPosition := by
  refine ⟨fun s i n hcommand hout hlower => ?_, codeReg_writeReg_of_idle⟩
  refine exec_of_commandResult_eq_failWith ?_ (by decide)
  obtain ⟨rfl, hn⟩ | rfl := hcommand
  · exact decodeResult_of_firstOutOfRange ((firstOutOfRange_eq_some 13 s n).2 ⟨hn, hout, hlower⟩)
  · exact validateResult_of_firstOutOfRange ((firstOutOfRange_eq_some 15 s n).2 ⟨n.isLt, hout, hlower⟩)

/-! ### The INVALID_ENCODING check -/

theorem padBitsSet_eq_true (s : State) : padBitsSet s = true ↔ (s.code[12]).toNat % 4 ≠ 0 :=
  bne_iff_ne

theorem decodeResult_of_padBitsSet {s : State} (hrange : firstOutOfRange 13 s = none) (hpad : padBitsSet s = true) :
    decodeResult s = failWith .invalidEncoding 12#4 := by
  simp only [decodeResult, hrange, hpad, if_true]

theorem validateResult_of_padBitsSet {s : State} (hrange : firstOutOfRange 15 s = none) (hpad : padBitsSet s = true) :
    validateResult s = failWith .invalidEncoding 12#4 := by
  simp only [validateResult, hrange, hpad, if_true]

/-- Settles O16: with every code that the command reads in range, the set padding bits of CODE12 decide its result. -/
theorem invalidEncodingIsReported : Obligations.InvalidEncodingIsReported := by
  intro s i hcommand hmod
  have hpad : padBitsSet s = true := (padBitsSet_eq_true s).2 hmod
  refine exec_of_commandResult_eq_failWith ?_ (by decide)
  obtain ⟨rfl, hrange⟩ | ⟨rfl, hrange⟩ := hcommand
  · exact decodeResult_of_padBitsSet ((firstOutOfRange_eq_none 13 s).2 hrange) hpad
  · exact validateResult_of_padBitsSet ((firstOutOfRange_fifteen_eq_none s).2 hrange) hpad

end Sys2Proof.Machine
end

section
/-! PROOFS. Reset and hazards (70_reset_and_hazards.md): the hardware and the soft reset (section 1), and host writes
while a command is in flight (section 3). -/

namespace Sys2Proof.Machine

/-! ### Reset -/

theorem registersReset_resetBlock (s : State) : registersReset (resetBlock s) :=
  ⟨resetBlock_seed s, resetBlock_code s, resetBlock_latch s, resetBlock_status s⟩

/-- An answer of the port changes no register, so a reset block stays one (R46). -/
theorem registersReset_answer {s : State} (h : registersReset s) (x : Reply) : registersReset (answer s x) := h

/-- A write to CTRL is decided by bit 0 alone: with it a soft reset, busy or not, without it nothing (R32, R142). -/
theorem writeReg_ctrl (s : State) (v : Word) : writeReg s .ctrl v = if v[0] then resetBlock s else s := rfl

/-- While the reset input is asserted the engine has no turn, so that a command in flight never completes (R140). -/
theorem engineTurn_of_resetAsserted (s : State) (h : s.resetAsserted = true) : engineTurn s = false := by
  simp [engineTurn, h]

/-- While the reset input is asserted no access of a host has a step (R141). -/
theorem serveAccess_ne_next_of_resetAsserted (s t : State) (a : Access) (h : s.resetAsserted = true) :
    serveAccess s a ≠ .next t := by
  intro hserved
  obtain ⟨hreleased, -⟩ := serveAccess_cases s t a hserved
  exact Bool.false_ne_true (hreleased.symm.trans h)

/-- From a state held in reset a step does nothing or resets the block again: neither the engine nor an access of a
host has one (R140, R141). -/
theorem step_cases_of_resetAsserted (s t : State) (hheld : s.resetAsserted = true) (hstep : step s = .next t) :
    t = s ∨ ∃ u, t = resetBlock u := by
  have hport : servePort s = .next t := by
    rwa [step, engineTurn_of_resetAsserted s hheld] at hstep
  obtain ⟨-, hidle⟩ | ⟨q, rest, a, -, -, haccess⟩ | ⟨q, rest, -, -, hassert⟩ | ⟨q, rest, -, -, hrelease⟩ :=
    servePort_cases s t hport
  · exact .inl hidle
  · exact absurd haccess (serveAccess_ne_next_of_resetAsserted { s with requests := rest } t a hheld)
  · exact .inr ⟨_, hassert⟩
  · exact .inr ⟨_, hrelease⟩

/-- Settles O33: assertion and release are each served by `resetBlock`, and from a state held in reset a step is that or
nothing. -/
theorem hardwareResetHoldsTheResetState : Obligations.HardwareResetHoldsTheResetState := by
  refine ⟨fun s after rest htakes => ?_, fun s after rest htakes => ?_, fun s t hheld hreset hstep => ?_⟩
  · exact ⟨_, step_of_portTakes s _ rest htakes, registersReset_resetBlock _, rfl, rfl⟩
  · exact ⟨_, step_of_portTakes s _ rest htakes, registersReset_resetBlock _, rfl, rfl, rfl⟩
  · obtain rfl | ⟨u, rfl⟩ := step_cases_of_resetAsserted s t hheld hstep
    · exact hreset
    · exact registersReset_resetBlock u

/-- Settles O32: the write to CTRL and the hardware reset are the same `resetBlock`, from states that differ only in the
port's fields. -/
theorem softResetRestoresTheResetState : Obligations.SoftResetRestoresTheResetState := by
  intro s v after rest htakes hreleased hbit
  have hstep : step s = .next (answer (resetBlock { s with requests := rest }) .writeDone) := by
    rw [step_hostWr s .ctrl v after rest htakes hreleased, writeReg_ctrl, if_pos hbit]
  exact ⟨_, _, hstep, registersReset_answer (registersReset_resetBlock _) _, rfl, rfl, rfl, rfl, rfl, rfl⟩

/-! ### Writes while a command is in flight -/

/-- A register write leaves the port's fields, whatever it does to the registers (R46). -/
theorem writeReg_portUnchanged (s : State) (r : Reg) (v : Word) : portUnchanged s (writeReg s r v) := by
  obtain ⟨h, -⟩ | ⟨-, -, h⟩ | ⟨-, -, h⟩ | ⟨-, h⟩ | ⟨-, -, h⟩ | ⟨k, -, -, h⟩ | ⟨n, -, -, h⟩ := writeReg_cases s r v <;>
    rw [h] <;> exact ⟨rfl, rfl, rfl, rfl⟩

section Busy

variable (s : State) (v : Word) (hbusy : s.status.busy = true)
include hbusy

theorem writeReg_cmd_of_busy : writeReg s .cmd v = dropWrite s := issue_of_busy s v hbusy

theorem writeReg_seed_of_busy (k : Fin 4) : writeReg s (.seed k) v = dropWrite s := if_pos hbusy

theorem writeReg_code_of_busy (n : Fin 15) : writeReg s (.code n) v = dropWrite s := if_pos hbusy

end Busy

/-- Settles O30: the port's fields as for every write; of the registers, CMD, SEED and CODE drop it, STATUS clears its
W1C bits, CTRL resets by bit 0, and ID ignores it. -/
theorem writesWhileBusy : Obligations.WritesWhileBusy := by
  intro s r v after rest htakes hreleased hbusy
  obtain ⟨hreset, hrequests, hreplies, hfreeReads⟩ := writeReg_portUnchanged { s with requests := rest } r v
  refine ⟨_, step_hostWr s r v after rest htakes hreleased, hrequests, congrArg (List.cons _) hreplies, hfreeReads,
    hreset.trans hreleased, ?_⟩
  have hbusyPort : ({ s with requests := rest } : State).status.busy = true := hbusy
  cases r with
  | cmd =>
    rw [writeReg_cmd_of_busy _ v hbusyPort]
    exact ⟨rfl, rfl, rfl, rfl⟩
  | seed k =>
    rw [writeReg_seed_of_busy _ v hbusyPort]
    exact ⟨rfl, rfl, rfl, rfl⟩
  | code n =>
    rw [writeReg_code_of_busy _ v hbusyPort]
    exact ⟨rfl, rfl, rfl, rfl⟩
  | status => exact ⟨rfl, rfl, rfl, rfl⟩
  | ctrl =>
    rw [writeReg_ctrl]
    dsimp only
    split
    · exact registersReset_answer (registersReset_resetBlock _) _
    · exact ⟨rfl, rfl, rfl, rfl⟩
  | id => exact ⟨rfl, rfl, rfl, rfl⟩

end Sys2Proof.Machine
end

section
/-! PROOFS. One step of the block (20_memory.md section 6, 30_encoding.md section 2): whose turn it is, the step that is
the engine's, and all that a step of the port can do. -/

namespace Sys2Proof.Machine

/-! ### The engine's turn -/

theorem step_of_engineTurn (s : State) (h : engineTurn s = true) : step s = engineStep s := by
  simp [step, h]

theorem step_of_not_engineTurn (s : State) (h : engineTurn s = false) : step s = servePort s := by
  simp [step, h]

/-- An idle block gives the engine no turn (R59). -/
theorem engineTurn_of_idle (s : State) (h : s.status.busy = false) : engineTurn s = false := by
  simp [engineTurn, h]

/-- A command in flight completes at once when its completion stands before the inputs (R59, R110). -/
theorem engineTurn_of_completionFirst (s : State) (hbusy : s.status.busy = true) (hreleased : s.resetAsserted = false)
    (hfirst : completionFirst s = true) : engineTurn s = true := by
  simp [engineTurn, hbusy, hreleased, hfirst]

theorem engineStep_of_decode_ok {s : State} {i : Instr} (h : decodeCommand s.latch = .ok i) :
    engineStep s = exec i s := by
  simp only [engineStep, h]

theorem servePort_nil (s : State) (h : s.requests = []) : servePort s = .next s := by
  simp only [servePort, h]

/-- The engine's step is a completion, of a word that decodes or of one that does not (R60). -/
theorem engineStep_eq_complete (s : State) : ∃ r, engineStep s = .next (complete s r) := by
  obtain ⟨i, -, h⟩ | ⟨e, -, h⟩ := engineStep_cases s <;> exact ⟨_, h⟩

/-- Settles O4: the two branches of `step`, the decoder's two answers on the engine's turn, and the port with an input
and without one. -/
theorem stepRunsTheDecodedCommand : Obligations.StepRunsTheDecodedCommand := by
  refine fun s => ⟨engineTurn_eq_true s, fun i hturn hdecode _ => ?_, fun e hturn hdecode => ?_,
    step_of_portTakes s, fun hport hnone => ?_⟩
  · rw [step_of_engineTurn s hturn, engineStep_of_decode_ok hdecode]
  · rw [step_of_engineTurn s hturn, engineStep_of_decode_error s ⟨e, hdecode⟩]
    rfl
  · rw [step_of_not_engineTurn s hport, servePort_nil s hnone]

/-! ### A word placed before the engine -/

/-- All 32 bits of a word belong to it. -/
theorem withFetchWord_toNat (s : State) (w : Word) : s.withFetchWord 32 w.toNat = withAccepted s w := by
  rw [State.withFetchWord, Nat.mod_eq_of_lt w.isLt, BitVec.ofNat_toNat, BitVec.setWidth_eq]

theorem engineTurn_withAccepted (s : State) (v : Word) : engineTurn (withAccepted s v) = true :=
  engineTurn_of_completionFirst _ rfl rfl (engineNext_completionFirst _)

/-- Settles O5: the placed word is accepted with its completion next, and the decoder reads it back. -/
theorem placedWordRunsNext : Obligations.PlacedWordRunsNext := by
  intro s i
  simp only [withFetchWord_toNat]
  refine ⟨?_, rfl, rfl, rfl, rfl⟩
  rw [step_of_engineTurn _ (engineTurn_withAccepted s _)]
  exact engineStep_of_decode_ok (decodeCommand_encodeCommand i)

/-! ### A command word written to CMD -/

/-- LASTOP of an accepted command is its opcode (R36, R58). -/
theorem encodeCommand_extractLsb'_op (i : Instr) : (encodeCommand i).extractLsb' 0 4 = opOfCommand i := by
  cases i <;> rfl

theorem writeReg_cmd_of_idle (s : State) (v : Word) (h : s.status.busy = false) :
    writeReg s .cmd v = acceptCommand s v := issue_of_idle s v h

/-- The step that accepts a word on an idle block, with every field that it changes (R58). -/
theorem step_hostWr_cmd_of_idle (s : State) (v : Word) (after : Bool) (rest : List Request)
    (htakes : portTakes s (hostWr .cmd v after) rest) (hreleased : s.resetAsserted = false)
    (hidle : s.status.busy = false) :
    step s = .next (answer (acceptCommand { s with requests := rest } v) .writeDone) := by
  rw [step_hostWr s .cmd v after rest htakes hreleased, writeReg_cmd_of_idle { s with requests := rest } v hidle]

/-- With the completion before the inputs that are left, the engine's step comes right after the acceptance (R59). -/
theorem step_of_accepted (s : State) (v : Word) (x : Reply) (hreleased : s.resetAsserted = false)
    (hfirst : completionFirst s = true) :
    step (answer (acceptCommand s v) x) = engineStep (answer (acceptCommand s v) x) :=
  step_of_engineTurn _ (engineTurn_of_completionFirst _ rfl hreleased hfirst)

/-- Settles O6: the acceptance field by field, then the engine's step on a word that decodes. -/
theorem commandWriteIsAcceptedThenRuns : Obligations.CommandWriteIsAcceptedThenRuns := by
  intro s i after rest htakes hreleased hidle hfirst
  refine ⟨_, step_hostWr_cmd_of_idle s (encodeCommand i) after rest htakes hreleased hidle, ?_, ?_⟩
  · rw [← encodeCommand_extractLsb'_op]
    rfl
  · rw [step_of_accepted { s with requests := rest } _ _ hreleased hfirst]
    exact engineStep_of_decode_ok (decodeCommand_encodeCommand i)

/-- Settles O7: the acceptance, then the engine's step on a word that the decoder rejects, which changes STATUS alone. -/
theorem illegalWordChangesStatusAndLatchOnly : Obligations.IllegalWordChangesStatusAndLatchOnly := by
  intro s v after rest htakes hreleased hidle hfirst hillegal
  refine ⟨_, step_hostWr_cmd_of_idle s v after rest htakes hreleased hidle, ?_⟩
  rw [step_of_accepted { s with requests := rest } v _ hreleased hfirst,
    engineStep_of_decode_error _ ((decodeCommand_eq_error v).2 hillegal), complete_failWith]
  rfl

/-! ### What a step of the port can do -/

/-- Every way in which the port's turn answers a next state: no input, a change of the reset input, an access that leaves
the block's registers as they are (a read or a bus error), or the write of a register. -/
inductive PortStep (s : State) : State → Prop
  | noInput (hnone : s.requests = []) : PortStep s s
  | resetInput {q : Request} {rest : List Request} (level : Bool) (hq : s.requests = q :: rest)
      (he : q.event = .assertReset ∨ q.event = .releaseReset) :
      PortStep s (resetBlock { s with requests := rest, resetAsserted := level })
  | noEffect {q : Request} {rest : List Request} (hq : s.requests = q :: rest) (hreleased : s.resetAsserted = false)
      (x : Reply) (k : Nat) :
      PortStep s { s with requests := rest, replies := x :: s.replies, freeReads := k }
  | write {q : Request} {ad w o : Nat} (rest : List Request) (r : Reg) (v : Word)
      (hq : s.requests = q :: rest) (he : q.event = .access (.write ad w v)) (ho : windowOffset ad = some o)
      (hr : legalTarget o w = some r) (hreleased : s.resetAsserted = false) :
      PortStep s (answer (writeReg { s with requests := rest } r v) .writeDone)

theorem portStep_of_servePort (s t : State) (h : servePort s = .next t) : PortStep s t := by
  obtain ⟨hnone, rfl⟩ | ⟨q, rest, a, hq, he, haccess⟩ | ⟨q, rest, hq, he, rfl⟩ | ⟨q, rest, hq, he, rfl⟩ :=
    servePort_cases s t h
  · exact .noInput hnone
  · obtain ⟨hreleased, o, ho, ⟨-, rfl⟩ | ⟨r, ad, w, -, -, rfl⟩ | ⟨r, ad, w, v, rfl, hr, rfl⟩⟩ :=
      serveAccess_cases { s with requests := rest } t a haccess
    · exact .noEffect hq hreleased _ _
    · obtain ⟨v, k, hread⟩ := readReg_frame { s with requests := rest } r
      rw [hread]
      exact .noEffect hq hreleased _ k
    · exact .write rest r v hq he ho hr hreleased
  · exact .resetInput true hq (.inl he)
  · exact .resetInput false hq (.inr he)

/-- All that a step can do: on the engine's turn a completion, of the latched command's result or of an illegal word; else
a step of the port (R20, R59, R60). -/
theorem step_next_cases (s t : State) (h : step s = .next t) :
    (engineTurn s = true ∧ ∃ i, decodeCommand s.latch = .ok i ∧ t = complete s (commandResult i s)) ∨
    (engineTurn s = true ∧ (∃ e, decodeCommand s.latch = .error e) ∧
      t = complete s (failWith .illegalCmd 0xF#4)) ∨
    (engineTurn s = false ∧ PortStep s t) := by
  obtain ⟨hturn, hs⟩ | ⟨hturn, hs⟩ := step_cases s
  · obtain ⟨i, hdecode, he⟩ | ⟨e, hdecode, he⟩ := engineStep_cases s
    all_goals
      obtain rfl := Host.Outcome.next.inj ((hs.trans he).symm.trans h)
    · exact .inl ⟨hturn, i, hdecode, rfl⟩
    · exact .inr (.inl ⟨hturn, ⟨e, hdecode⟩, rfl⟩)
  · exact .inr (.inr ⟨hturn, portStep_of_servePort s t (hs.symm.trans h)⟩)

end Sys2Proof.Machine
end

section
/-! PROOFS. STATUS, LATCH and the reset input along a run (10_state.md sections 4 and 5, 60_exceptions.md section 1,
70_reset_and_hazards.md): what every step keeps, and that a run neither stops nor leaves a command in flight. -/

namespace Sys2Proof.Machine

/-! ### STATUS against LATCH -/

/-- The clauses of `Consistent` that speak of STATUS and LATCH alone. -/
structure StatusFits (st : Status) (latch : Word) : Prop where
  inFlight : st.busy = true → st.done = false ∧ st.err = .none ∧ st.pos = 0xF#4
  lastop : st.lastop = latch.extractLsb' 0 4
  position : posFits st.err st.pos
  cause : errFits st.err st.pos latch
  illegalReported : (∀ i, decodeCommand latch ≠ .ok i) → st.busy = false → st.err = .illegalCmd

/-- The one clause left is that of the reset input. -/
theorem consistent_iff (s : State) :
    Consistent s ↔ StatusFits s.status s.latch ∧ (s.resetAsserted = true → resetBlock s = s) :=
  ⟨fun h => ⟨⟨h.inFlight, h.lastop, h.position, h.cause, h.illegalReported⟩, h.heldInReset⟩,
    fun ⟨h, hheld⟩ => ⟨h.inFlight, h.lastop, h.position, h.cause, h.illegalReported, hheld⟩⟩

theorem consistent_of_released {s : State} (h : StatusFits s.status s.latch) (hreleased : s.resetAsserted = false) :
    Consistent s :=
  (consistent_iff s).2 ⟨h, fun hheld => absurd (hheld.symm.trans hreleased) (by decide)⟩

/-- The word of NOP is the reset value of LATCH (R37, R56). -/
theorem statusFits_reset : StatusFits Status.reset 0#32 where
  inFlight := nofun
  lastop := rfl
  position := rfl
  cause := trivial
  illegalReported := fun hillegal _ => absurd (decodeCommand_encodeCommand .nop) (hillegal .nop)

/-- A reset block is consistent whatever the level of the reset input is (R140). -/
theorem consistent_resetBlock (s : State) : Consistent (resetBlock s) :=
  (consistent_iff _).2 ⟨statusFits_reset, fun _ => rfl⟩

/-- Settles O47: STATUS and LATCH at their reset values, the reset input released. -/
theorem resetIsConsistent : Obligations.ResetIsConsistent :=
  consistent_of_released statusFits_reset rfl

theorem statusFits_accepted (st : Status) (v : Word) : StatusFits (st.accepted v) v where
  inFlight := fun _ => ⟨rfl, rfl, rfl⟩
  lastop := rfl
  position := rfl
  cause := trivial
  illegalReported := fun _ hidle => absurd hidle nofun

/-- A dropped write and a write of the W1C bits leave what the clauses speak of, DONE apart, which they never set. -/
theorem StatusFits.of_done_imp {st st' : Status} {latch : Word} (h : StatusFits st latch)
    (hbusy : st'.busy = st.busy) (herr : st'.err = st.err) (hpos : st'.pos = st.pos) (hlast : st'.lastop = st.lastop)
    (hdone : st.done = false → st'.done = false) : StatusFits st' latch where
  inFlight := by
    rw [hbusy, herr, hpos]
    exact fun hb => (h.inFlight hb).imp_left hdone
  lastop := hlast.trans h.lastop
  position := by rw [herr, hpos]; exact h.position
  cause := by rw [herr, hpos]; exact h.cause
  illegalReported := by rw [hbusy, herr]; exact h.illegalReported

theorem StatusFits.overrun {st : Status} {latch : Word} (h : StatusFits st latch) : StatusFits st.overrun latch :=
  h.of_done_imp rfl rfl rfl rfl id

theorem StatusFits.writeOneToClear {st : Status} {latch : Word} (h : StatusFits st latch) (v : Word) :
    StatusFits (st.writeOneToClear v) latch :=
  h.of_done_imp rfl rfl rfl rfl fun hdone => by rw [Status.writeOneToClear_done, hdone, Bool.false_and]

/-- A completion fits when its result code and position go together and come from the word in LATCH. -/
theorem StatusFits.completed {st : Status} {latch : Word} (h : StatusFits st latch) {err : ResultCode} {pos : BitVec 4}
    (hposition : posFits err pos) (hcause : errFits err pos latch)
    (hillegal : (∀ i, decodeCommand latch ≠ .ok i) → err = .illegalCmd) :
    StatusFits (st.completed err pos) latch where
  inFlight := nofun
  lastop := h.lastop
  position := hposition
  cause := hcause
  illegalReported := fun hlatch _ => hillegal hlatch

/-! ### The results of the commands -/

/-- A RANGE failure names a position as its four bits (R102, R104). -/
theorem toNat_ofNat_position (n : Fin 15) : (BitVec.ofNat 4 n.val).toNat = n.val := by
  rw [BitVec.toNat_ofNat]
  omega

/-- Each result of a command has the position that goes with its code, and a code that the command produces (R62, R101,
R102). -/
theorem commandResult_fits (i : Instr) (s : State) (latch : Word) (hlatch : decodeCommand latch = .ok i) :
    posFits (commandResult i s).err (commandResult i s).pos ∧
      errFits (commandResult i s).err (commandResult i s).pos latch := by
  cases i with
  | nop | encode | checksum | phrase => exact ⟨rfl, trivial⟩
  | decode =>
    rw [commandResult]
    obtain ⟨n, hn, h⟩ | ⟨-, -, h⟩ | ⟨-, -, h⟩ := decodeResult_cases s <;> rw [h]
    · have hlow : n.val < 13 := ((firstOutOfRange_eq_some 13 s n).1 hn).1
      have hpos := toNat_ofNat_position n
      exact ⟨hpos.trans_le (by omega), .inl ⟨hlatch, hpos.trans_le (by omega)⟩⟩
    · exact ⟨rfl, .inl hlatch⟩
    · exact ⟨rfl, trivial⟩
  | validate =>
    rw [commandResult]
    obtain ⟨n, -, h⟩ | ⟨-, -, h⟩ | ⟨-, -, -, h⟩ | ⟨-, -, -, h⟩ := validateResult_cases s <;> rw [h]
    · have hpos := toNat_ofNat_position n
      exact ⟨hpos.trans_le (by omega), .inr hlatch⟩
    · exact ⟨rfl, .inr hlatch⟩
    · exact ⟨rfl, hlatch⟩
    · exact ⟨rfl, trivial⟩

/-! ### The invariant -/

/-- Completing the decoded command keeps STATUS and LATCH fitting. -/
theorem StatusFits.complete_command {s : State} (h : StatusFits s.status s.latch) {i : Instr}
    (hdecode : decodeCommand s.latch = .ok i) :
    StatusFits (complete s (commandResult i s)).status (complete s (commandResult i s)).latch := by
  obtain ⟨hposition, hcause⟩ := commandResult_fits i s s.latch hdecode
  rw [complete_status, complete_latch]
  exact h.completed hposition hcause fun hillegal => absurd hdecode (hillegal i)

/-- Completing an illegal word does too (R97). -/
theorem StatusFits.complete_illegal {s : State} (h : StatusFits s.status s.latch)
    (hdecode : ∃ e, decodeCommand s.latch = .error e) :
    StatusFits (complete s (failWith .illegalCmd 0xF#4)).status (complete s (failWith .illegalCmd 0xF#4)).latch := by
  obtain ⟨e, he⟩ := hdecode
  rw [complete_status, complete_latch]
  exact h.completed rfl (fun i hi => nomatch he.symm.trans hi) fun _ => rfl

theorem StatusFits.writeReg {s : State} (h : StatusFits s.status s.latch) (r : Reg) (v : Word) :
    StatusFits (writeReg s r v).status (writeReg s r v).latch := by
  obtain ⟨e, -⟩ | ⟨-, -, e⟩ | ⟨-, -, e⟩ | ⟨-, e⟩ | ⟨-, -, e⟩ | ⟨k, -, -, e⟩ | ⟨n, -, -, e⟩ := writeReg_cases s r v <;>
    rw [e]
  · exact h
  · exact statusFits_reset
  · exact statusFits_accepted _ v
  · exact h.writeOneToClear v
  · exact h.overrun
  · exact h
  · exact h

theorem PortStep.keeps_consistent {s t : State} (h : PortStep s t) (hs : Consistent s) : Consistent t := by
  have hfits := ((consistent_iff s).1 hs).1
  cases h with
  | noInput => exact hs
  | resetInput => exact consistent_resetBlock _
  | noEffect _ hreleased => exact consistent_of_released hfits hreleased
  | write rest r v _ _ _ _ hreleased =>
    obtain ⟨hreset, -⟩ := writeReg_portUnchanged { s with requests := rest } r v
    have hwritten := StatusFits.writeReg (s := { s with requests := rest }) hfits r v
    exact consistent_of_released hwritten (hreset.trans hreleased)

/-- Settles O46: a completion reports what the word in LATCH can produce, and the port changes STATUS and LATCH by
acceptance, a dropped write, the W1C bits and reset only. -/
theorem everyStepKeepsConsistent : Obligations.EveryStepKeepsConsistent := by
  intro s t hs hstep
  have hfits := ((consistent_iff s).1 hs).1
  obtain ⟨hturn, i, hdecode, rfl⟩ | ⟨hturn, hdecode, rfl⟩ | ⟨-, hport⟩ := step_next_cases s t hstep
  · obtain ⟨-, hreleased, -⟩ := (engineTurn_eq_true s).1 hturn
    exact consistent_of_released (hfits.complete_command hdecode) ((complete_resetAsserted _ _).trans hreleased)
  · obtain ⟨-, hreleased, -⟩ := (engineTurn_eq_true s).1 hturn
    exact consistent_of_released (hfits.complete_illegal hdecode) ((complete_resetAsserted _ _).trans hreleased)
  · exact hport.keeps_consistent hs

/-! ### Runs that never stop -/

theorem inputsServable_access {asserted : Bool} {q : Request} {rest : List Request} {a : Access}
    (he : q.event = .access a) : inputsServable asserted (q :: rest) = true ↔
      asserted = false ∧ (∃ o, windowOffset (accessAddr a) = some o) ∧ inputsServable asserted rest = true := by
  simp only [inputsServable, he, Bool.and_eq_true, Bool.not_eq_true', Option.isSome_iff_exists, and_assoc]

/-- A completion takes no input and leaves the reset input (R61). -/
theorem servable_complete (s : State) (r : CommandResult) : servable (complete s r) = servable s := by
  rw [servable, complete_resetAsserted, complete_requests, servable]

/-- Serving an access leaves the reset input and the inputs that follow (R45, R46). -/
theorem serveAtOffset_port (s : State) (a : Access) (o : Nat) :
    (serveAtOffset s a o).resetAsserted = s.resetAsserted ∧ (serveAtOffset s a o).requests = s.requests := by
  cases ht : legalTarget o (accessWidth a) with
  | none => rw [serveAtOffset_of_legalTarget_none s a o ht]; exact ⟨rfl, rfl⟩
  | some r =>
    rw [serveAtOffset_of_legalTarget_some s a o r ht]
    cases a with
    | read ad w =>
      obtain ⟨v, k, hread⟩ := readReg_frame s r
      rw [serveRegister, hread]
      exact ⟨rfl, rfl⟩
    | write ad w v =>
      obtain ⟨hreset, hrequests, -⟩ := writeReg_portUnchanged s r v
      exact ⟨hreset, hrequests⟩

/-- A servable input is served, and the ones that follow stay servable. -/
theorem servePort_of_servable (s : State) (h : servable s = true) :
    ∃ t, servePort s = .next t ∧ servable t = true ∧ t.requests = s.requests.tail := by
  cases hq : s.requests with
  | nil => exact ⟨s, servePort_nil s hq, h, hq⟩
  | cons q rest =>
    rw [servable, hq] at h
    cases he : q.event with
    | access a =>
      obtain ⟨hreleased, ⟨o, ho⟩, hrest⟩ := (inputsServable_access he).1 h
      obtain ⟨hreset, hrequests⟩ := serveAtOffset_port { s with requests := rest } a o
      refine ⟨serveAtOffset { s with requests := rest } a o, ?_, ?_, hrequests⟩
      · simp [servePort, hq, he, serveEvent, serveAccess, ho, hreleased]
      · rw [servable, hreset, hrequests]
        exact hrest
    | assertReset | releaseReset =>
      simp only [inputsServable, he] at h
      simp only [servePort, hq, he, serveEvent]
      exact ⟨_, rfl, h, rfl⟩

theorem step_of_servable (s : State) (h : servable s = true) : ∃ t, step s = .next t ∧ servable t = true := by
  obtain ⟨-, hs⟩ | ⟨-, hs⟩ := step_cases s
  · obtain ⟨r, hr⟩ := engineStep_eq_complete s
    exact ⟨_, hs.trans hr, (servable_complete s r).trans h⟩
  · obtain ⟨t, ht, hservable, -⟩ := servePort_of_servable s h
    exact ⟨t, hs.trans ht, hservable⟩

/-- Settles O48, by induction on the number of steps: each answers a next state whose inputs are servable again. -/
theorem servableInputsNeverStop : Obligations.ServableInputsNeverStop := by
  intro k
  induction k with
  | zero => exact fun s h => ⟨s, runSteps_zero s, h⟩
  | succ k ih =>
    intro s h
    obtain ⟨u, hu, hservable⟩ := step_of_servable s h
    obtain ⟨t, ht, htservable⟩ := ih u hservable
    exact ⟨t, (runSteps_succ k s u hu).trans ht, htservable⟩

/-! ### A command in flight ends -/

/-- A step of the port that leaves a command in flight has left the reset input as it was (R140). -/
theorem PortStep.resetAsserted_of_busy {s t : State} (h : PortStep s t) (hbusy : t.status.busy = true) :
    t.resetAsserted = s.resetAsserted := by
  cases h with
  | noInput => rfl
  | resetInput => cases hbusy
  | noEffect => rfl
  | write rest r v => exact (writeReg_portUnchanged { s with requests := rest } r v).1

/-- On the engine's turn the command in flight ends (R59). -/
theorem step_of_engineTurn_idle (s : State) (h : engineTurn s = true) :
    ∃ t, step s = .next t ∧ t.status.busy = false := by
  obtain ⟨r, hr⟩ := engineStep_eq_complete s
  exact ⟨_, (step_of_engineTurn s h).trans hr, by rw [complete_status]; rfl⟩

/-- Settles O49, by induction on the pending inputs: each step of the port takes one, and the engine has its turn at the
latest when none is left. -/
theorem acceptedCommandFinishes : Obligations.AcceptedCommandFinishes := by
  intro s hservable hreleased hbusy
  induction hn : s.requests generalizing s with
  | nil =>
    have hturn : engineTurn s = true := (engineTurn_eq_true s).2 ⟨hbusy, hreleased, .inl hn⟩
    obtain ⟨t, ht, hidle⟩ := step_of_engineTurn_idle s hturn
    exact ⟨1, t, Nat.le_add_left _ _, runSteps_succ 0 s t ht, hidle⟩
  | cons q rest ih =>
    obtain ⟨hturn, -⟩ | ⟨hturn, hstep⟩ := step_cases s
    · obtain ⟨t, ht, hidle⟩ := step_of_engineTurn_idle s hturn
      exact ⟨1, t, Nat.le_add_left _ _, runSteps_succ 0 s t ht, hidle⟩
    · obtain ⟨u, hu, huservable, hurequests⟩ := servePort_of_servable s hservable
      have hfirst := hstep.trans hu
      cases hubusy : u.status.busy with
      | false => exact ⟨1, u, Nat.le_add_left _ _, runSteps_succ 0 s u hfirst, hubusy⟩
      | true =>
        have hureleased := ((portStep_of_servePort s u hu).resetAsserted_of_busy hubusy).trans hreleased
        rw [hn, List.tail_cons] at hurequests
        obtain ⟨k, t, hk, ht, hidle⟩ := ih u huservable hureleased hubusy hurequests
        exact ⟨k + 1, t, by rw [List.length_cons]; omega, (runSteps_succ k s u hfirst).trans ht, hidle⟩

/-! ### OVR and the operands in flight -/

/-- A register write leaves OVR, or clears it as a STATUS write with bit 3 or a soft reset, or sets it as a dropped
write (R36, R107, R142, R146). -/
theorem writeReg_ovr_cases (s : State) (r : Reg) (v : Word) :
    (writeReg s r v).status.ovr = s.status.ovr ∨
    ((writeReg s r v).status.ovr = false ∧ ((r = .status ∧ v[3] = true) ∨ (r = .ctrl ∧ v[0] = true))) ∨
    ((writeReg s r v).status.ovr = true ∧ s.status.busy = true ∧
      (r = .cmd ∨ (∃ k, r = .seed k) ∨ ∃ n, r = .code n)) := by
  obtain ⟨e, -⟩ | ⟨hr, hv, e⟩ | ⟨-, -, e⟩ | ⟨hr, e⟩ | ⟨hbusy, hr, e⟩ | ⟨k, -, -, e⟩ | ⟨n, -, -, e⟩ :=
    writeReg_cases s r v <;> rw [e]
  · exact .inl rfl
  · exact .inr (.inl ⟨rfl, .inr ⟨hr, hv⟩⟩)
  · exact .inl rfl
  · cases hv : v[3] with
    | false => exact .inl (by simp [hv])
    | true => exact .inr (.inl ⟨by simp [hv], .inl ⟨hr, rfl⟩⟩)
  · exact .inr (.inr ⟨rfl, hbusy, hr⟩)
  · exact .inl rfl
  · exact .inl rfl

/-- A completion leaves OVR, so that a step which changes it is the port's (R61). -/
theorem portStep_of_ovr_ne {s t : State} (hstep : step s = .next t) (hne : s.status.ovr ≠ t.status.ovr) :
    engineTurn s = false ∧ PortStep s t := by
  obtain ⟨-, i, -, rfl⟩ | ⟨-, -, rfl⟩ | hport := step_next_cases s t hstep
  · exact absurd (congrArg Status.ovr (complete_status s _)).symm hne
  · exact absurd (congrArg Status.ovr (complete_status s _)).symm hne
  · exact hport

/-- Settles O44: of the steps of the port, only a change of the reset input and a register write change OVR. -/
theorem overrunIsSticky : Obligations.OverrunIsSticky := by
  refine fun s t hstep => ⟨fun hset hclear => ?_, fun hclear hset => ?_⟩
  · obtain ⟨hturn, hport⟩ := portStep_of_ovr_ne hstep (by rw [hset, hclear]; decide)
    refine ⟨hturn, ?_⟩
    cases hport with
    | noInput => exact absurd (hset.symm.trans hclear) (by decide)
    | noEffect => exact absurd (hset.symm.trans hclear) (by decide)
    | resetInput level hq he => exact ⟨_, _, hq, he.imp_right .inl⟩
    | write rest r v hq he ho hr =>
      obtain hkeep | ⟨-, hcause⟩ | ⟨hrise, -⟩ := writeReg_ovr_cases { s with requests := rest } r v
      · exact absurd (hset.symm.trans (hkeep.symm.trans hclear)) (by decide)
      · refine ⟨_, _, hq, .inr (.inr ⟨_, _, _, _, he, ho, ?_⟩)⟩
        obtain ⟨rfl, hv⟩ | ⟨rfl, hv⟩ := hcause
        exacts [.inl ⟨hr, hv⟩, .inr ⟨hr, hv⟩]
      · exact absurd (hrise.symm.trans hclear) (by decide)
  · obtain ⟨hturn, hport⟩ := portStep_of_ovr_ne hstep (by rw [hset, hclear]; decide)
    cases hport with
    | noInput => exact absurd (hclear.symm.trans hset) (by decide)
    | noEffect => exact absurd (hclear.symm.trans hset) (by decide)
    | resetInput => cases hset
    | write rest r v hq he ho hr =>
      obtain hkeep | ⟨hfall, -⟩ | ⟨-, hbusy, hreg⟩ := writeReg_ovr_cases { s with requests := rest } r v
      · exact absurd (hclear.symm.trans (hkeep.symm.trans hset)) (by decide)
      · exact absurd (hfall.symm.trans hset) (by decide)
      · exact ⟨hbusy, hturn, _, _, _, _, _, _, _, hq, he, ho, hr, hreg⟩

/-- The command in flight in `s` is still in flight in `t`, with the operands and the word it had. -/
def sameInFlight (s t : State) : Prop :=
  dataUnchanged s t ∧ t.latch = s.latch ∧ t.status.busy = true ∧ t.status.lastop = s.status.lastop

/-- While BUSY a register write leaves the command in flight, or is a soft reset (R146). -/
theorem writeReg_of_busy (s : State) (r : Reg) (v : Word) (hbusy : s.status.busy = true) :
    sameInFlight s (writeReg s r v) ∨ registersReset (writeReg s r v) := by
  have hnotidle : ¬ s.status.busy = false := by simp [hbusy]
  obtain ⟨e, -⟩ | ⟨-, -, e⟩ | ⟨-, hidle, -⟩ | ⟨-, e⟩ | ⟨-, -, e⟩ | ⟨k, -, hidle, -⟩ | ⟨n, -, hidle, -⟩ :=
    writeReg_cases s r v
  · rw [e]; exact .inl ⟨⟨rfl, rfl⟩, rfl, hbusy, rfl⟩
  · rw [e]; exact .inr (registersReset_resetBlock s)
  · exact absurd hidle hnotidle
  · rw [e]; exact .inl ⟨⟨rfl, rfl⟩, rfl, hbusy, rfl⟩
  · rw [e]; exact .inl ⟨⟨rfl, rfl⟩, rfl, hbusy, rfl⟩
  · exact absurd hidle hnotidle
  · exact absurd hidle hnotidle

/-- Settles O45: a step of the port has an effect on the registers only by a reset or by a register write. -/
theorem commandInFlightKeepsItsOperands : Obligations.CommandInFlightKeepsItsOperands := by
  intro s t hbusy hturn hstep
  have hport := portStep_of_servePort s t ((step_of_not_engineTurn s hturn).symm.trans hstep)
  cases hport with
  | noInput => exact .inl ⟨⟨rfl, rfl⟩, rfl, hbusy, rfl⟩
  | resetInput => exact .inr (registersReset_resetBlock _)
  | noEffect => exact .inl ⟨⟨rfl, rfl⟩, rfl, hbusy, rfl⟩
  | write rest r v => exact writeReg_of_busy { s with requests := rest } r v hbusy

end Sys2Proof.Machine
end

section
/-! PROOFS. The register map and STATUS's word (10_state.md sections 3 and 5), and the reads and writes of the window
(20_memory.md section 3, 60_exceptions.md section 2, 70_reset_and_hazards.md section 3). -/

namespace Sys2Proof.Machine

/-! ### The register map -/

/-- Only the aligned offsets below the reserved range name a register (R27). -/
theorem regAt_eq_none (o : Nat) (h : 0x5C ≤ o ∨ o % 4 ≠ 0) : regAt o = none := by
  refine Option.eq_none_iff_forall_ne_some.2 fun r hr => ?_
  obtain rfl := offsetOf_of_regAt o r hr
  exact h.elim (Nat.not_le.2 (offsetOf_lt r)) (· (offsetOf_aligned r))

/-- Settles O40: every register stands at its offset, which is the only offset that names it. -/
theorem eachOffsetNamesOneRegister : Obligations.EachOffsetNamesOneRegister := by
  refine ⟨regAt_offsetOf .id, regAt_offsetOf .ctrl, regAt_offsetOf .cmd, regAt_offsetOf .status,
    fun k => regAt_offsetOf (.seed k), fun n => regAt_offsetOf (.code n), fun o o' r ho ho' => ?_, regAt_eq_none⟩
  rw [offsetOf_of_regAt o r ho, offsetOf_of_regAt o' r ho']

/-! ### The STATUS word -/

/-- The word's fields at their weights: each append shifts what stands above it (R36). -/
theorem toNat_toWord (st : Status) : st.toWord.toNat =
    st.lastop.toNat * 4096 + st.pos.toNat * 256 + st.err.bits.toNat * 16 + st.ovr.toNat * 8 + st.done.toNat * 2 +
      st.busy.toNat := by
  simp only [Status.toWord, toNat_append_eq_add, BitVec.toNat_ofBool, BitVec.toNat_ofNat]
  omega

/-- Settles O42: the word's value, and the code of each result. -/
theorem statusWordLayout : Obligations.StatusWordLayout :=
  ⟨toNat_toWord, rfl, rfl, rfl, rfl, rfl⟩

/-- BUSY is bit 0 of the word (R36). -/
theorem toWord_getElem_zero (st : Status) : st.toWord[0] = st.busy := by
  simp only [← BitVec.getLsbD_eq_getElem, Status.toWord, BitVec.getLsbD_append]
  simp

/-- DONE is bit 1 of the word (R36). -/
theorem toWord_getElem_one (st : Status) : st.toWord[1] = st.done := by
  simp only [← BitVec.getLsbD_eq_getElem, Status.toWord, BitVec.getLsbD_append]
  simp

/-! ### Reads -/

/-- The step that serves a read of a register which no command in flight will write (R45, R48). -/
theorem step_hostRd_of_not_target (s : State) (r : Reg) (after : Bool) (rest : List Request)
    (htakes : portTakes s (hostRd r after) rest) (hreleased : s.resetAsserted = false)
    (htarget : inFlightTarget s r = false) :
    step s = .next { s with requests := rest, replies := .readData (regValue s r) :: s.replies } := by
  rw [step_hostRd s r after rest htakes hreleased, readReg_of_not_target { s with requests := rest } r htarget]
  rfl

/-- Settles O34: the answer is the register's value, and the value of each register is as the table says. -/
theorem readsAnswerTheRegister : Obligations.ReadsAnswerTheRegister := by
  intro s r after rest htakes hreleased htarget
  refine ⟨regValue s r, step_hostRd_of_not_target s r after rest htakes hreleased htarget, ?_⟩
  cases r with
  | id => exact idValue_eq_or
  | _ => rfl

theorem wordWriteSet_eq_true (v : Word) (r : Reg) :
    wordWriteSet v r = true ↔ ∃ i, decodeCommand v = .ok i ∧ writeSet i r = true := by
  cases h : decodeCommand v <;> simp [wordWriteSet, h]

theorem inFlightTarget_eq_true (s : State) (r : Reg) : inFlightTarget s r = true ↔
    s.status.busy = true ∧ ∃ i, decodeCommand s.latch = .ok i ∧ writeSet i r = true := by
  rw [inFlightTarget, Bool.and_eq_true, wordWriteSet_eq_true]

/-- No command writes STATUS but by its completion, so a read of it always answers the word (R62, R147). -/
theorem inFlightTarget_status (s : State) : inFlightTarget s .status = false := by
  refine Bool.eq_false_iff.2 fun h => ?_
  obtain ⟨-, i, -, hwrites⟩ := (inFlightTarget_eq_true s .status).1 h
  cases i <;> cases hwrites

/-- A read of a target of the command in flight answers the next free value (R147). -/
theorem readReg_of_target (s : State) (r : Reg) (h : inFlightTarget s r = true) :
    readReg s r = { s with
      replies := .readData (Config.freeRead s.freeReads) :: s.replies, freeReads := s.freeReads + 1 } :=
  if_pos h

theorem step_hostRd_status (s : State) (after : Bool) (rest : List Request)
    (htakes : portTakes s (hostRd .status after) rest) (hreleased : s.resetAsserted = false) :
    step s = .next { s with requests := rest, replies := .readData s.status.toWord :: s.replies } :=
  step_hostRd_of_not_target s .status after rest htakes hreleased (inFlightTarget_status s)

/-- Settles O35: what an in-flight target is, the free value that its read answers, and the word of a STATUS that is
consistent while BUSY. -/
theorem readsWhileBusy : Obligations.ReadsWhileBusy := by
  refine ⟨inFlightTarget_eq_true, fun s r after rest htakes hreleased htarget => ?_,
    fun s after rest htakes hreleased hs hbusy => ?_⟩
  · rw [step_hostRd s r after rest htakes hreleased, readReg_of_target { s with requests := rest } r htarget]
    exact ⟨_, rfl⟩
  · refine ⟨_, step_hostRd_status s after rest htakes hreleased, ?_⟩
    obtain ⟨hdone, herr, hpos⟩ := hs.inFlight hbusy
    simp only [toNat_toWord, hbusy, hdone, herr, hpos, ResultCode.bits, BitVec.toNat_ofNat, Bool.toNat_true,
      Bool.toNat_false]

/-- Settles O38: with the flag clear the port serves the read first; with it set the engine completes first, which
clears BUSY and sets DONE, and the port then serves the read. -/
theorem eitherOrderIsAdmitted : Obligations.EitherOrderIsAdmitted := by
  refine fun s rest hbusy hreleased => ⟨fun hq => ?_, fun hq => ?_⟩
  · have hturn : engineTurn s = false := by simp [engineTurn, completionFirst, hq, hostRd]
    have hstep := step_hostRd_status s false rest ⟨hturn, hq⟩ hreleased
    exact ⟨_, s.status.toWord, hstep, rfl, (toWord_getElem_zero _).trans hbusy, rfl⟩
  · have hturn : engineTurn s = true := (engineTurn_eq_true s).2 ⟨hbusy, hreleased, .inr ⟨_, rest, hq, rfl⟩⟩
    obtain ⟨r, hr⟩ := engineStep_eq_complete s
    have hstatus := complete_status s r
    have hidle : (complete s r).status.busy = false := congrArg Status.busy hstatus
    have hdone : (complete s r).status.done = true := congrArg Status.done hstatus
    have htakes : portTakes (complete s r) (hostRd .status true) rest :=
      ⟨engineTurn_of_idle _ hidle, (complete_requests s r).trans hq⟩
    have hread := step_hostRd_status _ true rest htakes ((complete_resetAsserted s r).trans hreleased)
    exact ⟨_, _, (complete s r).status.toWord, (step_of_engineTurn s hturn).trans hr, complete_requests s r,
      complete_replies s r, hread, congrArg (List.cons _) (complete_replies s r),
      (toWord_getElem_zero _).trans hidle, (toWord_getElem_one _).trans hdone⟩

/-! ### Writes -/

section Idle

variable (s : State) (v : Word) (hidle : s.status.busy = false)
include hidle

theorem writeReg_seed_of_idle (k : Fin 4) : writeReg s (.seed k) v = { s with seed := s.seed.set k v } := by
  simp [writeReg, hidle]

theorem writeReg_code_of_idle (n : Fin 15) : writeReg s (.code n) v = { s with code := s.code.set n v } := by
  simp [writeReg, hidle]

end Idle

/-- Settles O31: the step serves the write, and each register's write has its one effect on an idle block. -/
theorem writesWhileIdle : Obligations.WritesWhileIdle := by
  intro s r v after rest htakes hreleased hidle
  have hstep := step_hostWr s r v after rest htakes hreleased
  refine ⟨?_, ?_, ?_, ?_⟩
  · rintro k rfl
    rw [hstep, writeReg_seed_of_idle { s with requests := rest } v hidle]
    rfl
  · rintro n rfl
    rw [hstep, writeReg_code_of_idle { s with requests := rest } v hidle]
    rfl
  · rintro rfl
    exact hstep
  · rintro (rfl | ⟨rfl, hbit⟩)
    · exact hstep
    · rw [hstep, writeReg_ctrl, if_neg (by simp [hbit])]
      rfl

/-! ### Accesses that stop the run -/

/-- Settles O37: the two stops of `serveAccess`, at an address outside the window and at a window address in reset. -/
theorem unservableAccessStops : Obligations.UnservableAccessStops := by
  intro s a after rest htakes
  have hstep : step s = serveAccess { s with requests := rest } a := step_of_portTakes s _ rest htakes
  refine ⟨fun hout => ?_, fun o ho hheld => ?_⟩
  · simp only [hstep, serveAccess, (windowOffset_eq_none _).2 hout]
  · simp only [hstep, serveAccess, ho, hheld, if_true]

end Sys2Proof.Machine
end

section
/-! PROOFS. The results of the Codec commands and of VALIDATE (40_codec.md, 42_phrase_validate.md section 3): the values
that ENCODE and DECODE write, the seed of a tuple, and what becomes of a phrase whose checksum words differ. -/

namespace Sys2Proof.Machine

/-! ### ENCODE's ten-bit groups -/

/-- ENCODE leaves the checksum positions (R72). -/
theorem code_of_exec_encode_of_ge {s t : State} (h : exec .encode s = .next t) (n : Fin 15) (hn : 13 ≤ n.val) :
    t.code[n] = s.code[n] := by
  rw [(exec_eq_next _ _ _).1 h]
  exact regValue_complete_of_not_writeSet .encode s (.code n) nofun (decide_eq_false (Nat.not_lt.2 hn))

/-- Settles O9: a code is ten stream bits zero extended, and the completion and the other registers are as for every
ENCODE. -/
theorem encodeWritesTheTenBitGroups : Obligations.EncodeWritesTheTenBitGroups := by
  intro s
  obtain ⟨t, ht⟩ : ∃ t, exec .encode s = .next t := ⟨_, exec_eq_complete .encode s⟩
  refine ⟨t, ht, ?_, seed_of_exec_encode ht, code_of_exec_encode_of_ge ht 13 (by decide),
    code_of_exec_encode_of_ge ht 14 (by decide), fun n => ⟨(wellFormed_of_exec_encode ht).1 n, fun k => ?_⟩⟩
  · rw [(exec_eq_next _ _ _).1 ht]
    exact completedAs_complete s (commandResult .encode s)
  · have hwidth : 9 - k.val < 32 := by omega
    rw [code_of_exec_encode ht n, BitVec.getLsbD_setWidth, decide_eq_true hwidth, Bool.true_and]
    exact encodeSeed_streamBit _ n.val n.isLt k.val k.isLt

/-! ### DECODE's seed -/

/-- Bit `j` of decoded byte `i` is the bit of the codes at stream position `8i + 7 - j` (R74, R78). -/
theorem decodeCodes_streamBit (cs : DataCodes) (i : Nat) (hi : i < 16) (j : Nat) (hj : j < 8) :
    ((decodeCodes cs)[i]).getLsbD j = (cs[(8 * i + 7 - j) / 10]).getLsbD (9 - (8 * i + 7 - j) % 10) := by
  have hcode : 12 - (2 + (8 * (15 - i) + j)) / 10 = (8 * i + 7 - j) / 10 := by omega
  have hbit : (2 + (8 * (15 - i) + j)) % 10 = 9 - (8 * i + 7 - j) % 10 := by omega
  rw [decodeCodes_bit cs i hi j hj, joinCodes_bit cs _ (by omega)]
  simp only [hcode, hbit]

/-- A command whose result writes a whole seed and nothing else succeeds, leaves CODE, and SEED holds that seed (R61). -/
theorem exec_of_commandResult_eq_seedWrites {i : Instr} {s : State} {v : Vector Word 4}
    (h : commandResult i s = succeed (seedWrites v)) :
    ∃ t, exec i s = .next t ∧ completedAs s t .none 0xF#4 ∧ t.code = s.code ∧ t.seed = v := by
  refine ⟨_, exec_eq_complete i s, ?_⟩
  rw [h]
  refine ⟨completedAs_complete s (succeed (seedWrites v)), ?_⟩
  rw [complete_succeed, applyWrites_seedWrites]
  exact ⟨rfl, rfl⟩

/-- Settles O13: on a well-formed tuple DECODE's one write is the seed of the codes, whose bits are theirs. -/
theorem decodeRecoversTheSeedBits : Obligations.DecodeRecoversTheSeedBits := by
  intro s hrange hpad
  obtain ⟨t, ht, hdone, hcode, hseed⟩ :=
    exec_of_commandResult_eq_seedWrites (i := .decode) (decodeResult_of_wellFormed s hrange hpad)
  refine ⟨t, ht, hdone, hcode, fun i j => ?_⟩
  have hbytes : seedByte t i = (decodeCodes (dataCodes s))[i.val] := by
    rw [← seedBytes_of_packSeed t _ hseed, seedBytes_getElem]
  have hpos : (Fin.ofNat 15 ((8 * i.val + 7 - j.val) / 10)).val = (8 * i.val + 7 - j.val) / 10 :=
    Nat.mod_eq_of_lt (by omega)
  have hwidth : 9 - (8 * i.val + 7 - j.val) % 10 < 10 := by omega
  rw [hbytes, decodeCodes_streamBit _ i.val i.isLt j.val j.isLt, dataCodes_getElem, BitVec.getLsbD_setWidth,
    decide_eq_true hwidth, Bool.true_and]
  simp only [codeReg, Fin.getElem_fin, hpos]

/-- V is the sum of the codes at their weights: no code reaches into the next one's bits (R74, R79). -/
theorem toNat_joinCodes (cs : DataCodes) :
    (joinCodes cs).toNat = ∑ n : Fin 13, (cs[n]).toNat <<< (10 * (12 - n.val)) := by
  simp only [joinCodes, toNat_append_eq_add]
  simp only [Fin.sum_univ_succ, Fin.val_succ, Fin.val_zero, Finset.univ_unique, Fin.default_eq_zero,
    Finset.sum_singleton, Fin.getElem_fin, Nat.reduceAdd, Nat.shiftLeft_eq]
  omega

/-- S is V without its two low bits (R74). -/
theorem toNat_bigEndian_decodeCodes (cs : DataCodes) :
    (bigEndian (decodeCodes cs)).toNat = (joinCodes cs).toNat / 4 := by
  have hV : (joinCodes cs).toNat < 2 ^ 130 := (joinCodes cs).isLt
  rw [decodeCodes, bigEndian_toBytesBE, BitVec.extractLsb'_toNat, Nat.shiftRight_eq_div_pow]
  omega

/-- Settles O14: the value of the concatenation, and that of its upper 128 bits. -/
theorem joinedCodesNeverCarry : Obligations.JoinedCodesNeverCarry :=
  fun cs => ⟨toNat_joinCodes cs, toNat_bigEndian_decodeCodes cs⟩

/-! ### The one seed of a well-formed tuple -/

/-- The word codes of a tuple of register values. -/
def tupleCodes (cs : Vector Word 13) : DataCodes := cs.map (·.setWidth 10)

theorem wellFormedTuple_eq_true (cs : Vector Word 13) :
    wellFormedTuple cs = true ↔ (∀ n : Fin 13, (cs[n]).toNat < 1024) ∧ (cs[12]).toNat % 4 = 0 := by
  simp only [wellFormedTuple, Bool.and_eq_true, List.all_eq_true, isCode, decide_eq_true_eq, padZero, beq_iff_eq,
    Vector.mem_toList_iff, Vector.mem_iff_getElem]
  refine and_congr_left fun _ => ⟨fun h n => h _ ⟨n, n.isLt, rfl⟩, ?_⟩
  rintro h _ ⟨n, hn, rfl⟩
  exact h ⟨n, hn⟩

/-- On values below 1024 the registers that ENCODE writes are the tuple exactly when the seed's codes are the tuple's. -/
theorem exec_encode_writes_iff {s t : State} (h : exec .encode s = .next t) {cs : Vector Word 13}
    (hrange : ∀ n : Fin 13, (cs[n]).toNat < 1024) :
    (∀ n : Fin 13, t.code[n] = cs[n]) ↔ encodeSeed (seedBytes s) = tupleCodes cs := by
  constructor
  · intro hcodes
    rw [← dataCodes_of_exec_encode h]
    refine Vector.ext fun n hn => ?_
    rw [dataCodes_getElem, tupleCodes, Vector.getElem_map]
    exact congrArg _ (hcodes ⟨n, hn⟩)
  · intro hseed n
    calc
      t.code[n] = ((tupleCodes cs)[n]).setWidth 32 := by rw [code_of_exec_encode h, hseed]
      _ = ((cs[n]).setWidth 10).setWidth 32 := by simp only [tupleCodes, Fin.getElem_fin, Vector.getElem_map]
      _ = cs[n] := setWidth_setWidth_of_isCode _ (hrange n)

/-- Codes whose padding bits are zero are those of one seed, the one they decode to (R77). -/
theorem encodeSeed_eq_iff_eq_decodeCodes (b : SeedBytes) (cs : DataCodes) (hpad : (cs[12]).toNat % 4 = 0) :
    encodeSeed b = cs ↔ b = decodeCodes cs := by
  constructor
  · rintro rfl
    exact (decodeCodes_encodeSeed b).symm
  · rintro rfl
    exact encodeSeed_decodeCodes cs hpad

/-- The seed bytes determine the SEED registers and are determined by them (R34, R74). -/
theorem seedBytes_eq_iff (s : State) (b : SeedBytes) : seedBytes s = b ↔ s.seed = packSeed b := by
  constructor
  · rintro rfl
    exact (packSeed_seedBytes s).symm
  · exact seedBytes_of_packSeed s b

/-- Settles O24: ENCODE writes the tuple exactly from the seed buffer that holds the decoded bytes of its codes. -/
theorem everyWellFormedTupleHasOneSeed : Obligations.EveryWellFormedTupleHasOneSeed := by
  intro cs hcs
  obtain ⟨hrange, hpad⟩ := (wellFormedTuple_eq_true cs).1 hcs
  have hpad10 : ((tupleCodes cs)[12]).toNat % 4 = 0 := by
    rw [tupleCodes, Vector.getElem_map, BitVec.toNat_setWidth]
    omega
  have hkey : ∀ s t : State, exec .encode s = .next t →
      ((∀ n : Fin 13, t.code[n] = cs[n]) ↔ s.seed = packSeed (decodeCodes (tupleCodes cs))) := fun s t h => by
    rw [exec_encode_writes_iff h hrange, encodeSeed_eq_iff_eq_decodeCodes _ _ hpad10, seedBytes_eq_iff]
  refine ⟨packSeed (decodeCodes (tupleCodes cs)), fun s hs => ?_, fun b hb => ?_⟩
  · exact ⟨_, exec_eq_complete .encode s, (hkey s _ (exec_eq_complete .encode s)).2 hs⟩
  · obtain ⟨t, ht, hcodes⟩ := hb { State.reset with seed := b } rfl
    exact (hkey _ t ht).1 hcodes

/-! ### VALIDATE on a valid and on a changed phrase -/

/-- A valid phrase begins with a well-formed 13-tuple (R89). -/
theorem IsValidPhrase.decodeResult_eq {s : State} (hs : IsValidPhrase s) :
    decodeResult s = succeed (seedWrites (packSeed (decodeCodes (dataCodes s)))) := by
  obtain ⟨hrange, hpad, -⟩ := hs
  exact decodeResult_of_wellFormed s (fun n => hrange (n.castLE (by decide))) hpad

/-- Settles O21: on a valid phrase VALIDATE and DECODE have the same result, the write of the decoded seed. -/
theorem validateWritesTheDecodedSeed : Obligations.ValidateWritesTheDecodedSeed := by
  intro s hrange hpad h13 h14
  have hs : IsValidPhrase s := ⟨hrange, hpad, h13, h14⟩
  obtain ⟨t, ht, hdone, hcode, hseed⟩ :=
    exec_of_commandResult_eq_seedWrites (i := .validate) (validateResult_of_isValidPhrase hs)
  obtain ⟨u, hu, -, -, huseed⟩ := exec_of_commandResult_eq_seedWrites (i := .decode) hs.decodeResult_eq
  exact ⟨t, u, ht, hu, hdone, hcode, hseed.trans huseed.symm, seedBytes_of_packSeed t _ hseed⟩

/-- With the range and encoding checks passed, a phrase that is not valid fails the comparison of the checksum words
(R88). -/
theorem validateResult_of_not_isValidPhrase {s : State} (hrange : ∀ n : Fin 15, (codeReg s n).toNat < 1024)
    (hpad : (s.code[12]).toNat % 4 = 0) (hs : ¬ IsValidPhrase s) :
    validateResult s = failWith .checksumMismatch 0xF#4 := by
  have hnone := (firstOutOfRange_fifteen_eq_none s).2 hrange
  have hclear := (padBitsSet_eq_false s).2 hpad
  have hdiffer : checksumMatches s (checksumWords (decodeCodes (dataCodes s))) = false :=
    Bool.eq_false_iff.2 fun hmatch => hs ((isValidPhrase_iff_checks s).2 ⟨hnone, hclear, hmatch⟩)
  simp [validateResult, hnone, hclear, hdiffer, noPosition]

/-- VALIDATE then reports the mismatch and writes nothing (R61, R88). -/
theorem exec_validate_of_not_isValidPhrase {s : State} (hrange : ∀ n : Fin 15, (codeReg s n).toNat < 1024)
    (hpad : (s.code[12]).toNat % 4 = 0) (hs : ¬ IsValidPhrase s) :
    ∃ t, exec .validate s = .next t ∧ completedAs s t .checksumMismatch 0xF#4 ∧ dataUnchanged s t :=
  exec_of_commandResult_eq_failWith (i := .validate) (validateResult_of_not_isValidPhrase hrange hpad hs) (by decide)

/-- Settles O22: a phrase with a checksum word that differs is not valid. -/
theorem validateReportsAMismatch : Obligations.ValidateReportsAMismatch := by
  intro s hrange hpad hdiffer
  refine exec_validate_of_not_isValidPhrase hrange hpad fun ⟨_, _, h13, h14⟩ => ?_
  exact hdiffer.elim (· h13) (· h14)

/-- A change of one position of the code buffer, read back register by register. -/
theorem codeReg_set (s : State) (n m : Fin 15) (v : Word) :
    codeReg { s with code := s.code.set n v } m = if n = m then v else codeReg s m := by
  simp only [codeReg, Fin.getElem_fin, Vector.getElem_set, Fin.ext_iff]

/-- The data codes do not see the checksum positions. -/
theorem dataCodes_set_of_ge (s : State) (n : Fin 15) (v : Word) (hn : 13 ≤ n.val) :
    dataCodes { s with code := s.code.set n v } = dataCodes s :=
  dataCodes_congr _ _ fun m => (codeReg_set s n (m.castLE (by decide)) v).trans
    (if_neg fun e => by have := congrArg Fin.val e; simp only [Fin.val_castLE] at this; omega)

/-- The data codes of a valid phrase fix its two checksum words (R89). -/
theorem IsValidPhrase.codeReg_eq {s t : State} (hs : IsValidPhrase s) (ht : IsValidPhrase t)
    (hdata : dataCodes t = dataCodes s) (n : Fin 15) (hn : 13 ≤ n.val) : codeReg t n = codeReg s n := by
  obtain ⟨-, -, hs13, hs14⟩ := hs
  obtain ⟨-, -, ht13, ht14⟩ := ht
  rw [hdata] at ht13 ht14
  obtain rfl | rfl : n = 13 ∨ n = 14 := by omega
  · exact ht13.trans hs13.symm
  · exact ht14.trans hs14.symm

/-- Settles O26: the changed phrase has the data codes of the accepted one, which fix both checksum words, so that it is
not valid, while its codes stay in range. -/
theorem changedChecksumWordIsRejected : Obligations.ChangedChecksumWordIsRejected := by
  rintro s n v ⟨t, ht, hnone⟩ hn hv hne
  have hs : IsValidPhrase s := (err_of_exec_validate_eq_none_iff ht).1 hnone
  have hchanged : ¬ IsValidPhrase { s with code := s.code.set n v } := fun hvalid => by
    have hsame := hs.codeReg_eq hvalid (dataCodes_set_of_ge s n v hn) n hn
    rw [codeReg_set, if_pos rfl] at hsame
    exact hne hsame
  obtain ⟨hrange, hpad, -⟩ := hs
  have hrange' : ∀ m, (codeReg { s with code := s.code.set n v } m).toNat < 1024 := fun m => by
    rw [codeReg_set]
    split
    · exact hv
    · exact hrange m
  have hcode12 : codeReg { s with code := s.code.set n v } 12 = codeReg s 12 := by
    rw [codeReg_set, if_neg (by omega)]
  obtain ⟨u, hu, hdone, hseed, hcode⟩ :=
    exec_validate_of_not_isValidPhrase hrange' ((congrArg (·.toNat % 4) hcode12).trans hpad) hchanged
  exact ⟨u, hu, hdone, hseed, hcode⟩

end Sys2Proof.Machine
end
